-- ==== Sys2Proof/Word.lean ====
section
/-! DEFINITION. The value types of the CORE (spec/46_common_semantics.md R181): unsigned integers of a stated width. -/

namespace Sys2Proof

/-- A byte: "an 8-bit unsigned value, range 0-255" (R4, R181). -/
abbrev Byte := BitVec 8

/-- A word: lengths, dimensions, the checksum (R4, R181). -/
abbrev Word := BitVec 32

/-- A command word: opcode in bits 39:32, operand field in bits 31:0 (R60). -/
abbrev Command := BitVec 40

end Sys2Proof
end

