-- ==== Sys2Proof/Machine/Operands.lean ====
section
/-! DEFINITION. The fields of a command word and the operand forms (spec/30_encoding.md R60 to R62), and the big-endian
word encoder BEW with its inverse (spec/40_bew.md R80, R82). -/

namespace Sys2Proof.Machine

/-- The opcode, bits 39:32 (R60). -/
def opcodeField (c : Command) : Byte := c.extractLsb' 32 8

/-- The operand field, bits 31:0 (R60). -/
def operandField (c : Command) : Word := c.extractLsb' 0 32

/-- A command word from its opcode and its operand field (R60). -/
def commandWord (opcode : Byte) (operand : Word) : Command := opcode ++ operand

/-- Bits 31:24 of a word. -/
def byte3 (w : Word) : Byte := w.extractLsb' 24 8

/-- Bits 23:16 of a word: `r` of format P (R62). -/
def byte2 (w : Word) : Byte := w.extractLsb' 16 8

/-- Bits 15:8 of a word: `g` of format P (R62). -/
def byte1 (w : Word) : Byte := w.extractLsb' 8 8

/-- Bits 7:0 of a word: `b` of formats B and P (R62). -/
def byte0 (w : Word) : Byte := w.extractLsb' 0 8

/-- The word whose bytes are the four given, most significant first (R82). -/
def wordOfBytes (b3 b2 b1 b0 : Byte) : Word := (b3 ++ b2 ++ (b1 ++ b0) : BitVec 32)

/-- `BEW(w)`: exactly 4 bytes, most significant first (R80). -/
def bew (w : Word) : List Byte := [byte3 w, byte2 w, byte1 w, byte0 w]

/-- The inverse of `bew` on 4 bytes, `b0 * 2^24 + b1 * 2^16 + b2 * 2^8 + b3` (R82); no word for another length. -/
def unbew : List Byte → Option Word
  | [b3, b2, b1, b0] => some (wordOfBytes b3 b2 b1 b0)
  | _ => none

/-- Operand field of format B: the byte, every other bit zero (R61). -/
def byteOperand (b : Byte) : Word := wordOfBytes 0#8 0#8 0#8 b

/-- Operand field of format P: zero, red, green, blue (R61). -/
def pixelOperand (r g b : Byte) : Word := wordOfBytes 0#8 r g b

end Sys2Proof.Machine
end

