-- ==== Sys2Proof/Config.lean ====
section
/-! DEFINITION. What an implementation fixes (spec/00_scope.md R4, R5) and the one free value of the model. -/

namespace Sys2Proof

/-- The two open parameters of R5. "The model takes each as an argument; no rule fixes its value": they travel with the
state, no command writes them, and a statement over every state is a statement over every value. -/
structure Config where
  /-- PB_CAP: capacity in bytes of the payload buffer PB (R25). -/
  pbCap : Nat
  /-- SLB_CAP: capacity in bytes of the scanline buffer SLB (R24). -/
  slbCap : Nat
  deriving DecidableEq, Repr

/-- The capacities of `State.reset`: 65536 each, the convention of spec/95_test_vectors.md.
DESIGN CHOICE (log entry 1), unsafe for a claim about `State.reset` alone: R5 fixes no value. -/
def Config.standard : Config := { pbCap := 65536, slbCap := 65536 }

/-- CRC_INIT (R4, R90). -/
def Config.crcInit : Word := 0xFFFFFFFF#32

/-- CRC_POLY, reflected form (R4, R90). -/
def Config.crcPoly : Word := 0xEDB88320#32

/-- CRC_XOROUT (R4, R90). -/
def Config.crcXorOut : Word := 0xFFFFFFFF#32

/-- FILTER_TYPE, always "no filter" (R4, R110). -/
def Config.filterType : Byte := 0x00#8

/-- FREE VALUE (log entry 5; spec/93_implementation_defined.md U3): the response of a command that the reset input cuts
short. `none`: no response; `some (status, k)`: that status and the first `k` bytes of the command's data. Nothing in Lean
can evaluate it, so a statement about it holds whatever the hardware does; the argument is `State.freeUses`. -/
opaque Config.cutResponse : Nat → Option (Byte × Nat)

end Sys2Proof
end

