-- ==== Sys2Proof/Syntax.lean ====
section
/-! DEFINITION. The 14 commands of the opcode map (spec/30_encoding.md R63), their formats (R61), the pseudo-instructions
(R69) and the pixel grid a host encodes (spec/42_slp.md R100). -/

namespace Sys2Proof

/-- One constructor per row of spec/opcode_table.json. Operands have the exact width of their field (R62), so no term of
this type carries a value its command word could not hold. -/
inductive Instr where
  /-- BEW.ENC `w` (R81). -/
  | bewEnc (w : Word)
  /-- CRC.INIT (R95). -/
  | crcInit
  /-- CRC.UPD `b` (R96). -/
  | crcUpd (b : Byte)
  /-- CRC.FIN (R97). -/
  | crcFin
  /-- SLP.SETW `w` (R102). -/
  | slpSetw (w : Word)
  /-- SLP.SETH `h` (R103). -/
  | slpSeth (h : Word)
  /-- SLP.BEGIN (R104). -/
  | slpBegin
  /-- SLP.PIX `r, g, b` (R105). -/
  | slpPix (r g b : Byte)
  /-- SLP.EOR (R106). -/
  | slpEor
  /-- SLP.PACK (R107). -/
  | slpPack
  /-- CHB.PUSHB `b` (R121). -/
  | chbPushb (b : Byte)
  /-- CHB.PUSHW `w` (R122). -/
  | chbPushw (w : Word)
  /-- CHB.BUILD `t` (R123): `t` is the type tag, first tag byte in bits 31:24. -/
  | chbBuild (t : Word)
  /-- SYS.RST (R130). -/
  | sysRst
  deriving DecidableEq, Repr

/-- The four formats of R61. -/
inductive Format where
  /-- no operand -/
  | n
  /-- a byte in bits 7:0 -/
  | b
  /-- a word in bits 31:0 -/
  | w
  /-- a pixel: red 23:16, green 15:8, blue 7:0 -/
  | p
  deriving DecidableEq, Repr

/-- The five units (R1, R180). -/
inductive FunctionalUnit where
  | bew
  | crc
  | slp
  | chb
  | sys
  deriving DecidableEq, Repr

/-- The unit a command belongs to (R180). -/
def Instr.unit : Instr → FunctionalUnit
  | .bewEnc _ => .bew
  | .crcInit => .crc
  | .crcUpd _ => .crc
  | .crcFin => .crc
  | .slpSetw _ => .slp
  | .slpSeth _ => .slp
  | .slpBegin => .slp
  | .slpPix _ _ _ => .slp
  | .slpEor => .slp
  | .slpPack => .slp
  | .chbPushb _ => .chb
  | .chbPushw _ => .chb
  | .chbBuild _ => .chb
  | .sysRst => .sys

/-- A pixel: red, green, blue, one byte each (R100). -/
structure Pixel where
  red : Byte
  green : Byte
  blue : Byte
  deriving DecidableEq, Repr

/-- A PixelGrid: rows from top to bottom, each its pixels from left to right (R100). Whether it is non-empty and
rectangular is `gridWellFormed`. -/
abbrev PixelGrid := List (List Pixel)

/-- The pseudo-instructions of R69; each expands to commands and has no encoding of its own. -/
inductive Pseudo where
  | crcBytes (bs : List Byte)
  | crcOf (bs : List Byte)
  | chbPushs (bs : List Byte)
  | slpRow (ps : List Pixel)
  | slpGrid (w h : Word)
  | pngIhdr (w h : Word)
  | pngIdat (bs : List Byte)
  | pngIend
  deriving DecidableEq, Repr

end Sys2Proof
end

