-- ==== Sys2Proof/WellFormed.lean ====
section
/-! DEFINITION. The checks on what comes from outside: the parameters (spec/00_scope.md R5), a command word against the
opcode map (spec/30_encoding.md R63 to R65), a pixel grid (spec/45_container_sequence.md R141) and a pixel given in
integers (spec/60_exceptions.md R163). A term of `Instr` needs no check: each operand has its field's width, which
is how R64 makes a wider operand unwritable. -/

namespace Sys2Proof

/-- The constraints of R5: 13 <= PB_CAP <= 2^32 - 1 and SLB_CAP >= 4. -/
def Config.legal (c : Config) : Bool :=
  decide (13 ≤ c.pbCap) && decide (c.pbCap ≤ 2 ^ 32 - 1) && decide (4 ≤ c.slbCap)

/-- One row of the opcode map of R63: a word `c` is that command if and only if `c AND mask = pattern`. -/
structure OpcodeRow where
  mnemonic : String
  format : Format
  pattern : Command
  mask : Command
  deriving DecidableEq, Repr

/-- The opcode map of R63, row by row (`pattern` is the table's `match`). -/
def opcodeMap : List OpcodeRow :=
  [ ⟨"BEW.ENC", .w, 0x0100000000#40, 0xFF00000000#40⟩,
    ⟨"CRC.INIT", .n, 0x1000000000#40, 0xFFFFFFFFFF#40⟩,
    ⟨"CRC.UPD", .b, 0x1100000000#40, 0xFFFFFFFF00#40⟩,
    ⟨"CRC.FIN", .n, 0x1200000000#40, 0xFFFFFFFFFF#40⟩,
    ⟨"SLP.SETW", .w, 0x2000000000#40, 0xFF00000000#40⟩,
    ⟨"SLP.SETH", .w, 0x2100000000#40, 0xFF00000000#40⟩,
    ⟨"SLP.BEGIN", .n, 0x2200000000#40, 0xFFFFFFFFFF#40⟩,
    ⟨"SLP.PIX", .p, 0x2300000000#40, 0xFFFF000000#40⟩,
    ⟨"SLP.EOR", .n, 0x2400000000#40, 0xFFFFFFFFFF#40⟩,
    ⟨"SLP.PACK", .n, 0x2500000000#40, 0xFFFFFFFFFF#40⟩,
    ⟨"CHB.PUSHB", .b, 0x3000000000#40, 0xFFFFFFFF00#40⟩,
    ⟨"CHB.PUSHW", .w, 0x3100000000#40, 0xFF00000000#40⟩,
    ⟨"CHB.BUILD", .w, 0x3200000000#40, 0xFF00000000#40⟩,
    ⟨"SYS.RST", .n, 0xF000000000#40, 0xFFFFFFFFFF#40⟩ ]

/-- The word is the row's command (R63). -/
def OpcodeRow.admits (r : OpcodeRow) (c : Command) : Bool := (c &&& r.mask) == r.pattern

/-- The word is one of the 14 commands; any other word is illegal (R65). -/
def wordLegal (c : Command) : Bool := opcodeMap.any fun r => r.admits c

/-- The mnemonic of a command, as R63 writes it. -/
def Instr.mnemonic : Instr → String
  | .bewEnc _ => "BEW.ENC"
  | .crcInit => "CRC.INIT"
  | .crcUpd _ => "CRC.UPD"
  | .crcFin => "CRC.FIN"
  | .slpSetw _ => "SLP.SETW"
  | .slpSeth _ => "SLP.SETH"
  | .slpBegin => "SLP.BEGIN"
  | .slpPix _ _ _ => "SLP.PIX"
  | .slpEor => "SLP.EOR"
  | .slpPack => "SLP.PACK"
  | .chbPushb _ => "CHB.PUSHB"
  | .chbPushw _ => "CHB.PUSHW"
  | .chbBuild _ => "CHB.BUILD"
  | .sysRst => "SYS.RST"

/-- The width of a grid: the length of its first row, 0 if there is none (R141). -/
def gridWidth (g : PixelGrid) : Nat :=
  match g with
  | [] => 0
  | row :: _ => row.length

/-- The precondition of R141 and the invariant of R100: at least one row and one column, every row of the same length, both
dimensions within 32 bits. -/
def gridWellFormed (g : PixelGrid) : Bool :=
  !g.isEmpty && decide (1 ≤ gridWidth g) && g.all (fun row => row.length == gridWidth g) &&
    decide (g.length < 2 ^ 32) && decide (gridWidth g < 2 ^ 32)

/-- A colour as a host with a wider type holds it (R151). DESIGN CHOICE (log entry 13): the wider type is the integers, R163's
"generic integers", so a component below 0 can be given too; the spec names no type. -/
structure WideColor where
  red : Int
  green : Int
  blue : Int
  deriving DecidableEq, Repr

/-- Every component is within 0 to 255 (R163). -/
def WideColor.inRange (c : WideColor) : Bool :=
  decide (0 ≤ c.red ∧ c.red ≤ 255) && decide (0 ≤ c.green ∧ c.green ≤ 255) && decide (0 ≤ c.blue ∧ c.blue ≤ 255)

end Sys2Proof
end

