-- ==== Sys2Proof/Decode.lean ====
section
/-! DEFINITION. Decoding a command word (spec/30_encoding.md R60 to R66), total and reading no state, and the encoder written
from the same tables; the 5-byte transport of a word (spec/20_memory.md R46). -/

namespace Sys2Proof

open Sys2Proof.Machine

/-- Why a word is no command (R65), or why no word was received. The CORE treats the first two alike: ILLEGAL_COMMAND. -/
inductive Illegal where
  /-- the opcode is none of the 14 (R65) -/
  | unknownOpcode (opcode : Byte)
  /-- one of the 14 opcodes with a reserved operand bit set (R64) -/
  | reservedBitSet (opcode : Byte)
  /-- fewer than the 5 bytes of a word stand on a byte-wide channel: no word and no fault of the CORE. DESIGN CHOICE (log
  entry 16): R46 and R67 give only the whole word. -/
  | truncated
  deriving DecidableEq, Repr

/-- Format N: every operand bit is reserved (R61). -/
def readN (opcode : Byte) (x : Word) (i : Instr) : Except Illegal Instr :=
  if x = 0#32 then .ok i else .error (.reservedBitSet opcode)

/-- Format B: bits 31:8 are reserved (R61). -/
def readB (opcode : Byte) (x : Word) (make : Byte → Instr) : Except Illegal Instr :=
  if x = byteOperand (byte0 x) then .ok (make (byte0 x)) else .error (.reservedBitSet opcode)

/-- Format P: bits 31:24 are reserved (R61). -/
def readP (opcode : Byte) (x : Word) (make : Byte → Byte → Byte → Instr) : Except Illegal Instr :=
  if byte3 x = 0#8 then .ok (make (byte2 x) (byte1 x) (byte0 x)) else .error (.reservedBitSet opcode)

/-- Decode an opcode and an operand field (R62, R63). -/
def decodeFields (op : Byte) (x : Word) : Except Illegal Instr :=
  if op = 0x01#8 then .ok (.bewEnc x)
  else if op = 0x10#8 then readN op x .crcInit
  else if op = 0x11#8 then readB op x .crcUpd
  else if op = 0x12#8 then readN op x .crcFin
  else if op = 0x20#8 then .ok (.slpSetw x)
  else if op = 0x21#8 then .ok (.slpSeth x)
  else if op = 0x22#8 then readN op x .slpBegin
  else if op = 0x23#8 then readP op x .slpPix
  else if op = 0x24#8 then readN op x .slpEor
  else if op = 0x25#8 then readN op x .slpPack
  else if op = 0x30#8 then readB op x .chbPushb
  else if op = 0x31#8 then .ok (.chbPushw x)
  else if op = 0x32#8 then .ok (.chbBuild x)
  else if op = 0xF0#8 then readN op x .sysRst
  else .error (.unknownOpcode op)

/-- `decode(c)` of R66: total, and it reads no state. -/
def decode (c : Command) : Except Illegal Instr := decodeFields (opcodeField c) (operandField c)

/-- The command word of a command (R60 to R63). -/
def encode : Instr → Command
  | .bewEnc w => commandWord 0x01#8 w
  | .crcInit => commandWord 0x10#8 0#32
  | .crcUpd b => commandWord 0x11#8 (byteOperand b)
  | .crcFin => commandWord 0x12#8 0#32
  | .slpSetw w => commandWord 0x20#8 w
  | .slpSeth h => commandWord 0x21#8 h
  | .slpBegin => commandWord 0x22#8 0#32
  | .slpPix r g b => commandWord 0x23#8 (pixelOperand r g b)
  | .slpEor => commandWord 0x24#8 0#32
  | .slpPack => commandWord 0x25#8 0#32
  | .chbPushb b => commandWord 0x30#8 (byteOperand b)
  | .chbPushw w => commandWord 0x31#8 w
  | .chbBuild t => commandWord 0x32#8 t
  | .sysRst => commandWord 0xF0#8 0#32

/-- A command word as it travels over a byte-wide channel: the opcode byte, then `BEW(operand)` (R46). -/
def transportBytes (c : Command) : List Byte := opcodeField c :: bew (operandField c)

/-- Take one command word from a byte stream (R46): the word and the rest of the stream. DESIGN CHOICE (log entry 16): fewer
than 5 bytes are the error `truncated` of this function and reach no step; the spec says nothing of them. -/
def receiveWord : List Byte → Except Illegal (Command × List Byte)
  | op :: b3 :: b2 :: b1 :: b0 :: rest => .ok (commandWord op (wordOfBytes b3 b2 b1 b0), rest)
  | _ => .error .truncated

/-- Decode the command at the head of a byte stream (R46, R66). -/
def decodeBytes (stream : List Byte) : Except Illegal (Instr × List Byte) :=
  match receiveWord stream with
  | .error e => .error e
  | .ok (c, rest) =>
    match decode c with
    | .error e => .error e
    | .ok i => .ok (i, rest)

/-- The word whose bits are `w`, numbered as spec/opcode_table.json numbers them: one 40-bit word, bit 0 its least
significant; bits from `nbits` on are zero. DEDUCED (log entry 8). -/
def tableWord (nbits w : Nat) : Command := BitVec.ofNat 40 (w % 2 ^ nbits)

/-- The command the decoder reads from a table word; none where it refuses. -/
def decodeTableWord (nbits w : Nat) : Option Instr :=
  match decode (tableWord nbits w) with
  | .ok i => some i
  | .error _ => none

end Sys2Proof
end

