-- ==== Sys2Proof/Machine/State.lean ====
section
/-! DEFINITION. The state of one CORE (spec/10_state.md R22 to R37), what the host may do at a command boundary
(spec/45_container_sequence.md R155), and the reasons a step can stop. -/

namespace Sys2Proof.Machine

/-- MODE (R30). -/
inductive Mode where
  /-- RUN (0) -/
  | run
  /-- FAULT (1): sticky until reset (R168) -/
  | fault
  deriving DecidableEq, Repr

/-- The faults of the CORE and their names (spec/60_exceptions.md R160). They are taken, not stops: see `raiseFault`. -/
inductive FaultCode where
  /-- ILLEGAL_COMMAND (R161) -/
  | illegalCommand
  /-- MALFORMED_INPUT (R162) -/
  | malformedInput
  /-- COLOR_COMPONENT_OUT_OF_RANGE: reserved; the CORE never raises it (R163) -/
  | colorComponentOutOfRange
  /-- PROTOCOL (R164) -/
  | protocol
  /-- CAPACITY (R165) -/
  | capacity
  deriving DecidableEq, Repr

/-- The response of one command: a status byte and a data byte sequence (R70). -/
structure Response where
  status : Byte
  data : List Byte
  deriving DecidableEq, Repr

/-- How the host can break the port's protocol (spec/93_implementation_defined.md U4). -/
inductive PortBreach where
  /-- the host withdraws a command word during the transaction -/
  | wordWithdrawn
  /-- the host changes a command word during the transaction -/
  | wordChanged
  /-- the host does not take the whole response -/
  | responseNotTaken
  deriving DecidableEq, Repr

/-- One thing the host does at the command port (R67, R155, R190; U3, U4). -/
inductive HostInput where
  /-- present a command word (R67) -/
  | word (c : Command)
  /-- assert the hardware reset input at a command boundary (R190) -/
  | resetInput
  /-- assert the hardware reset input while the command word `c` is executing (U3) -/
  | resetDuring (c : Command)
  /-- break the port's protocol (U4) -/
  | breach (b : PortBreach)
  deriving DecidableEq, Repr

/-- The state: the ten architectural items of R22, then the response log and what the model holds of the environment. -/
structure State where
  /-- ACC, the checksum accumulator (R23). -/
  acc : Word
  /-- WIDTH, pixels per row (R26). -/
  width : Word
  /-- HEIGHT, rows of the grid (R26). -/
  height : Word
  /-- ROW, rows completed in the active grid (R29). -/
  row : Word
  /-- COL, pixels received in the current row (R29). -/
  col : Word
  /-- ACTIVE, a grid is being packed (R29). -/
  active : Bool
  /-- SLB, the scanline buffer: its bytes in index order (R24). -/
  slb : List Byte
  /-- PB, the payload buffer: its bytes in index order (R25). -/
  pb : List Byte
  /-- MODE (R30). -/
  mode : Mode
  /-- ERR, the code of the fault that put the CORE in FAULT, else 0 (R30). -/
  err : Byte
  /-- RSP, the responses of all commands executed so far, in order (R35): an observation that no command reads. -/
  rsp : List Response
  /-- PB_CAP and SLB_CAP (R5): configuration that no command writes. -/
  cfg : Config
  /-- What the host does next, in order (R20, R67). -/
  inputs : List HostInput
  /-- The MODEL's own counter: free values used so far (log entry 5). -/
  freeUses : Nat
  deriving DecidableEq, Repr

/-- Why a step stops. -/
inductive Fault where
  /-- Raised by `step` when the host breaks the port's protocol: the stuck CORE of U4. Safe: the spec says nothing of the
  case, and no claim can be proved about what follows it (log entry 6). -/
  | portBreach (b : PortBreach)
  deriving DecidableEq, Repr

/-- Why an instruction has no meaning. -/
inductive Refusal where
  /-- Raised by `exec` for an instruction without a meaning; safe. No arm of `exec` raises it: all 14 have theirs. -/
  | notModelled (mnemonic : String)
  deriving DecidableEq, Repr

/-- The state right after reset (R34) of a CORE with capacities `cfg`. Nothing has executed, so RSP is empty (R35). -/
def State.resetWith (cfg : Config) : State where
  acc := 0xFFFFFFFF#32
  width := 0#32
  height := 0#32
  row := 0#32
  col := 0#32
  active := false
  slb := []
  pb := []
  mode := .run
  err := 0x00#8
  rsp := []
  cfg := cfg
  inputs := []
  freeUses := 0

/-- The state right after reset (R34), with the capacities of spec/95_test_vectors.md (DESIGN CHOICE, log entry 1). -/
def State.reset : State := State.resetWith Config.standard

end Sys2Proof.Machine
end

