-- ==== Sys2Proof/Machine/Ops.lean ====
section
/-! DEFINITION. The operations the commands share: the buffer primitives (spec/00_scope.md section 6.2, spec/20_memory.md R40
to R42), the named register updates, answering a command (spec/30_encoding.md R70), raising a fault
(spec/60_exceptions.md R167) and returning from one by reset (R169), the FAULT-mode refusal (R168). -/

namespace Sys2Proof.Machine

/-- What a command, or a step, comes to. -/
abbrev Result := Host.Outcome State Fault Refusal

/-! ### The buffers -/

/-- `MemRead(B:a, n)`: the `n` bytes of a buffer at indices `a` to `a + n - 1`. -/
def memRead (buf : List Byte) (a n : Nat) : List Byte := (buf.drop a).take n

/-- `MemWrite(B:a, n, s)`: writes the bytes `s` at index `a` on; only used with `a = len(B)`, which grows the buffer. -/
def memWrite (buf : List Byte) (a : Nat) (s : List Byte) : List Byte :=
  buf.take a ++ s ++ buf.drop (a + s.length)

/-- `append(B, s)`. -/
def memAppend (buf s : List Byte) : List Byte := memWrite buf buf.length s

/-- The whole of a buffer, in index order. -/
def memReadAll (buf : List Byte) : List Byte := memRead buf 0 buf.length

/-! ### The register and buffer writes of the command rules, each touching only what its name says -/

/-- `ACC <- v` (R23). -/
def setAcc (v : Word) (s : State) : State := { s with acc := v }

/-- `WIDTH <- w` (R26). -/
def setWidth (w : Word) (s : State) : State := { s with width := w }

/-- `HEIGHT <- h` (R26). -/
def setHeight (h : Word) (s : State) : State := { s with height := h }

/-- `SLB <- [] ; ROW <- 0 ; COL <- 0 ; ACTIVE <- a`: the start and the end of a grid (R104, R107). -/
def setGrid (a : Bool) (s : State) : State := { s with slb := [], row := 0#32, col := 0#32, active := a }

/-- `append(SLB, bytes) ; COL <- COL + 1` (R105). -/
def pushPixel (bytes : List Byte) (s : State) : State :=
  { s with slb := memAppend s.slb bytes, col := s.col + 1#32 }

/-- `ROW <- ROW + 1 ; COL <- 0` (R106). -/
def closeRow (s : State) : State := { s with row := s.row + 1#32, col := 0#32 }

/-- `append(PB, bytes)` (R121, R122). -/
def pushPayload (bytes : List Byte) (s : State) : State := { s with pb := memAppend s.pb bytes }

/-- `PB <- []` (R123). -/
def clearPayload (s : State) : State := { s with pb := [] }

/-- `MODE <- FAULT ; ERR <- code` (R167). -/
def setFault (code : Byte) (s : State) : State := { s with mode := .fault, err := code }

/-- The ten items at their reset values (R34); the observation, the capacities and the host's inputs are no part of the
reset state (R22, R35, R36). -/
def resetItems (s : State) : State :=
  { s with
    acc := 0xFFFFFFFF#32
    width := 0#32
    height := 0#32
    row := 0#32
    col := 0#32
    active := false
    slb := []
    pb := []
    mode := .run
    err := 0x00#8 }

/-- The rest of the host's inputs, once the first is taken (R67). -/
def setInputs (rest : List HostInput) (s : State) : State := { s with inputs := rest }

/-- One more free value used (log entry 5). -/
def countFreeUse (s : State) : State := { s with freeUses := s.freeUses + 1 }

/-! ### Answering a command -/

/-- Deliver one response (R70): it joins RSP (R35). -/
def respond (status : Byte) (data : List Byte) (s : State) : State :=
  { s with rsp := s.rsp ++ [⟨status, data⟩] }

/-- A command that did what its rule says: status OK and the data it emits (R70). -/
def complete (data : List Byte) (s : State) : Result := .next (respond 0x00#8 data s)

/-! ### Faults -/

/-- The codes of R160. -/
def faultCode : FaultCode → Byte
  | .illegalCommand => 0x01#8
  | .malformedInput => 0x02#8
  | .colorComponentOutOfRange => 0x03#8
  | .protocol => 0x10#8
  | .capacity => 0x11#8

/-- `raise Fault(C)` (R167): nothing changes but MODE and ERR, and the response is the code with empty data. -/
def raiseFault (c : FaultCode) (s : State) : Result :=
  .next (respond (faultCode c) [] (setFault (faultCode c) s))

/-- The refusal of FAULT mode (R168): no state changes, and the response is ERR with empty data. -/
def refuseWord (s : State) : Result := .next (respond s.err [] s)

/-- Step 2 of the order of checks (R166): in FAULT mode the word is refused, in RUN mode the rest applies. -/
def inRunMode (s : State) (body : Result) : Result :=
  match s.mode with
  | .run => body
  | .fault => refuseWord s

/-- One check of a command's pseudocode: `if bad then raise Fault(C)`. -/
def check (bad : Bool) (c : FaultCode) (s : State) (rest : Result) : Result :=
  if bad then raiseFault c s else rest

/-- The return from FAULT mode, and the only one (R169): the reset state. It is what the hardware reset input does at a
command boundary (R190) and what SYS.RST does before it answers (R130, R131). -/
def resetCore (s : State) : State := resetItems s

end Sys2Proof.Machine
end

