-- ==== Sys2Proof/Machine/Bew.lean ====
section
/-! DEFINITION. Unit BEW, the Big-Endian Word Encoder (spec/40_bew.md). Its function `bew` is in Operands.lean. -/

namespace Sys2Proof.Machine

/-- BEW.ENC `w`: emit the four big-endian bytes of `w` (R81). -/
def execBewEnc (w : Word) (s : State) : Result :=
  inRunMode s (complete (bew w) s)

end Sys2Proof.Machine
end

