-- ==== Sys2Proof/Machine/Crc.lean ====
section
/-! DEFINITION. Unit CRC, the Checksum Engine (spec/41_crc.md): the functions of R91 to R93, the two equal forms of R94, and
CRC.INIT, CRC.UPD, CRC.FIN. -/

namespace Sys2Proof.Machine

/-- One of the 8 iterations of R91. -/
def crcIter (w : Word) : Word :=
  if w.getLsbD 0 then (w >>> 1) ^^^ Config.crcPoly else w >>> 1

/-- `n` iterations of R91, one after the other. -/
def crcIterate : Nat → Word → Word
  | 0, w => w
  | n + 1, w => crcIterate n (crcIter w)

/-- `crc_step(a, b)` (R91): the working value is the low 8 bits of `a XOR b`, zero-extended (reading A of C2). -/
def crcStep (a : Word) (b : Byte) : Word :=
  crcIterate 8 ((byte0 (a ^^^ b.setWidth 32)).setWidth 32) ^^^ (a >>> 8)

/-- `crc_run(a, s)` (R92): first byte first. -/
def crcRun (a : Word) (s : List Byte) : Word := s.foldl crcStep a

/-- `crc_acc(s)` (R92). -/
def crcAcc (s : List Byte) : Word := crcRun Config.crcInit s

/-- The final inversion (R90, R93). -/
def crcFinal (a : Word) : Word := a ^^^ Config.crcXorOut

/-- `CRC32(s)` (R93). -/
def crc32 (s : List Byte) : Word := crcFinal (crcAcc s)

/-- The table form's entry `T[i]` (R94): the 8 iterations started from `i`. -/
def crcTable (i : Byte) : Word := crcIterate 8 (i.setWidth 32)

/-- The bit-loop form of `crc_step` (R94), without the final XOR. -/
def crcStepBitLoop (a : Word) (b : Byte) : Word := crcIterate 8 (a ^^^ b.setWidth 32)

/-- CRC.INIT: `ACC <- 0xFFFFFFFF` (R95). -/
def execCrcInit (s : State) : Result :=
  inRunMode s (complete [] (setAcc Config.crcInit s))

/-- CRC.UPD `b`: `ACC <- crc_step(ACC, b)` (R96). -/
def execCrcUpd (b : Byte) (s : State) : Result :=
  inRunMode s (complete [] (setAcc (crcStep s.acc b) s))

/-- CRC.FIN: `emit(BEW(ACC XOR 0xFFFFFFFF))`; ACC keeps its value (R97). -/
def execCrcFin (s : State) : Result :=
  inRunMode s (complete (bew (crcFinal s.acc)) s)

end Sys2Proof.Machine
end

