-- ==== Sys2Proof/Machine/Flags.lean ====
section
/-! DEFINITION. There are no arithmetic flags; the only status bits are ACTIVE and MODE (spec/10_state.md R31). This file
holds every condition the command rules test, each computed as spec/46_common_semantics.md R181 says: equality of
registers, and sizes as natural numbers without wrap-around. -/

namespace Sys2Proof.Machine

/-- `ACTIVE = 1` (R29). -/
def gridActive (s : State) : Bool := s.active

/-- `ACTIVE = 0` (R29). -/
def gridInactive (s : State) : Bool := !s.active

/-- `WIDTH = 0 or HEIGHT = 0` (R104). -/
def dimensionZero (s : State) : Bool := s.width == 0#32 || s.height == 0#32

/-- `HEIGHT * (3 * WIDTH + 1)` as a natural number (R101, R181, D30). -/
def packedSize (width height : Word) : Nat := height.toNat * (3 * width.toNat + 1)

/-- `HEIGHT * (3 * WIDTH + 1) > SLB_CAP` (R104, R165). -/
def gridTooLarge (s : State) : Bool := decide (packedSize s.width s.height > s.cfg.slbCap)

/-- `ROW = HEIGHT` (R105, R106). -/
def rowsDone (s : State) : Bool := s.row == s.height

/-- `COL = WIDTH` (R105). -/
def rowFull (s : State) : Bool := s.col == s.width

/-- `COL = 0`: the next pixel opens a row (R105). -/
def rowUnopened (s : State) : Bool := s.col == 0#32

/-- `len(PB) + n > PB_CAP` (R121, R122, R165). -/
def payloadFull (n : Nat) (s : State) : Bool := decide (s.pb.length + n > s.cfg.pbCap)

/-- MODE = RUN, ACTIVE = 0 and `len(PB) = 0` (R37). -/
def idle (s : State) : Bool := s.mode == .run && !s.active && s.pb.isEmpty

end Sys2Proof.Machine
end

