-- ==== Sys2Proof/Machine/Chb.lean ====
section
/-! DEFINITION. Unit CHB, the Chunk Builder (spec/43_chb.md): the function CHUNK of R120, and CHB.PUSHB, CHB.PUSHW,
CHB.BUILD. -/

namespace Sys2Proof.Machine

/-- `BEW(len(p))`. The length is below `2^32` for every payload within PB_CAP (R5, R33); a longer one, which no reachable
state holds, would be reduced modulo `2^32` (log entry 7). -/
def lengthField (p : List Byte) : List Byte := bew (BitVec.ofNat 32 p.length)

/-- `CHUNK(t, p)` (R120): length of the payload, tag, payload, checksum over tag and payload. -/
def chunk (t : Word) (p : List Byte) : List Byte :=
  lengthField p ++ bew t ++ p ++ bew (crc32 (bew t ++ p))

/-- CHB.PUSHB `b` (R121). -/
def execChbPushb (b : Byte) (s : State) : Result :=
  inRunMode s <|
    check (payloadFull 1 s) .capacity s <|
      complete [] (pushPayload [b] s)

/-- CHB.PUSHW `w` (R122). -/
def execChbPushw (w : Word) (s : State) : Result :=
  inRunMode s <|
    check (payloadFull 4 s) .capacity s <|
      complete [] (pushPayload (bew w) s)

/-- CHB.BUILD `t` (R123): any tag is framed (R126); ACC is left at the accumulator before the final inversion. -/
def execChbBuild (t : Word) (s : State) : Result :=
  let p := memReadAll s.pb
  let a := crcRun Config.crcInit (bew t ++ p)
  inRunMode s <|
    complete (lengthField p ++ bew t ++ p ++ bew (crcFinal a)) (clearPayload (setAcc a s))

end Sys2Proof.Machine
end

