-- ==== Sys2Proof/Machine/Slp.lean ====
section
/-! DEFINITION. Unit SLP, the Scanline Packer (spec/42_slp.md): the function PACK of R100 and the six SLP commands, each with
its checks in the order its pseudocode lists them. -/

namespace Sys2Proof.Machine

/-- The three bytes of a pixel: red, green, blue, "in that order" (R100). -/
def pixelBytes (p : Pixel) : List Byte := [p.red, p.green, p.blue]

/-- `ROWB(row)`: the filter-type byte, then the pixels left to right (R100, R110). -/
def rowBytes (row : List Pixel) : List Byte := Config.filterType :: row.flatMap pixelBytes

/-- `PACK(g)`: the rows top to bottom (R100). -/
def pack (g : PixelGrid) : List Byte := g.flatMap rowBytes

/-- What SLP.PIX appends: the filter-type byte if the pixel opens its row, then its components (R105). -/
def pixelAppend (r g b : Byte) (s : State) : List Byte :=
  (if rowUnopened s then [Config.filterType] else []) ++ pixelBytes ⟨r, g, b⟩

/-- SLP.SETW `w` (R102). -/
def execSlpSetw (w : Word) (s : State) : Result :=
  inRunMode s <|
    check (gridActive s) .protocol s <|
      complete [] (setWidth w s)

/-- SLP.SETH `h` (R103). -/
def execSlpSeth (h : Word) (s : State) : Result :=
  inRunMode s <|
    check (gridActive s) .protocol s <|
      complete [] (setHeight h s)

/-- SLP.BEGIN (R104). -/
def execSlpBegin (s : State) : Result :=
  inRunMode s <|
    check (gridActive s) .protocol s <|
      check (dimensionZero s) .malformedInput s <|
        check (gridTooLarge s) .capacity s <|
          complete [] (setGrid true s)

/-- SLP.PIX `r, g, b` (R105). -/
def execSlpPix (r g b : Byte) (s : State) : Result :=
  inRunMode s <|
    check (gridInactive s) .protocol s <|
      check (rowsDone s) .malformedInput s <|
        check (rowFull s) .malformedInput s <|
          complete [] (pushPixel (pixelAppend r g b s) s)

/-- SLP.EOR (R106). -/
def execSlpEor (s : State) : Result :=
  inRunMode s <|
    check (gridInactive s) .protocol s <|
      check (rowsDone s) .malformedInput s <|
        check (!rowFull s) .malformedInput s <|
          complete [] (closeRow s)

/-- SLP.PACK (R107): WIDTH and HEIGHT keep their values. -/
def execSlpPack (s : State) : Result :=
  inRunMode s <|
    check (gridInactive s) .protocol s <|
      check (!rowsDone s) .malformedInput s <|
        check (!rowUnopened s) .malformedInput s <|
          complete (memReadAll s.slb) (setGrid false s)

end Sys2Proof.Machine
end

