-- ==== Sys2Proof/Machine/Sys.lean ====
section
/-! DEFINITION. Unit SYS (spec/44_sys.md). -/

namespace Sys2Proof.Machine

/-- SYS.RST (R130): the one command that reads not even MODE; it answers OK in either mode. -/
def execSysRst (s : State) : Result := complete [] (resetCore s)

end Sys2Proof.Machine
end

