-- ==== Sys2Proof/Machine/Dispatch.lean ====
section
/-! DEFINITION. One arm per command. -/

namespace Sys2Proof.Machine

def exec (i : Instr) (s : State) : Host.Outcome State Fault Refusal :=
  match i with
  | .bewEnc w => Sys2Proof.Machine.execBewEnc w s
  | .crcInit => Sys2Proof.Machine.execCrcInit s
  | .crcUpd b => Sys2Proof.Machine.execCrcUpd b s
  | .crcFin => Sys2Proof.Machine.execCrcFin s
  | .slpSetw w => Sys2Proof.Machine.execSlpSetw w s
  | .slpSeth h => Sys2Proof.Machine.execSlpSeth h s
  | .slpBegin => Sys2Proof.Machine.execSlpBegin s
  | .slpPix r g b => Sys2Proof.Machine.execSlpPix r g b s
  | .slpEor => Sys2Proof.Machine.execSlpEor s
  | .slpPack => Sys2Proof.Machine.execSlpPack s
  | .chbPushb b => Sys2Proof.Machine.execChbPushb b s
  | .chbPushw w => Sys2Proof.Machine.execChbPushw w s
  | .chbBuild t => Sys2Proof.Machine.execChbBuild t s
  | .sysRst => Sys2Proof.Machine.execSysRst s

end Sys2Proof.Machine
end

