-- ==== Sys2Proof/Machine/Port.lean ====
section
/-! DEFINITION. The command port (spec/30_encoding.md R67, R70): taking one input of the host and executing one command
word in the order of checks of spec/60_exceptions.md R166; the hardware reset input (spec/70_reset_and_hazards.md R190). -/

namespace Sys2Proof.Machine

/-- An illegal word (R161): ILLEGAL_COMMAND in RUN mode, refused in FAULT mode like any other word (R168). -/
def executeIllegal (s : State) : Result := inRunMode s (raiseFault .illegalCommand s)

/-- One transaction (R66, R67): decode the word, then execute the command it is. -/
def executeWord (c : Command) (s : State) : Result :=
  match decode c with
  | .ok i => exec i s
  | .error _ => executeIllegal s

/-- The data of the last response of a state. -/
def lastData (s : State) : List Byte :=
  match s.rsp.getLast? with
  | some r => r.data
  | none => []

/-- The data the command word `c` would emit (used by `cutShort` alone). -/
def dataOf (c : Command) (s : State) : List Byte :=
  match executeWord c s with
  | .next t => lastData t
  | .fault _ => []
  | .refused _ => []

/-- Deliver the response of a command cut short: "any status, any prefix of the data, or none" (U3). -/
def respondCut (cut : Option (Byte × Nat)) (data : List Byte) (s : State) : State :=
  match cut with
  | none => s
  | some (status, k) => respond status (data.take k) s

/-- The reset input asserted while the word `c` executes (U3): the response is a free value, the state afterwards is the
reset state (R190; log entry 5). -/
def cutShort (c : Command) (s : State) : State :=
  countFreeUse (resetCore (respondCut (Config.cutResponse s.freeUses) (dataOf c s) s))

/-- What the CORE does with one input of the host. -/
def takeInput (x : HostInput) (s : State) : Result :=
  match x with
  | .word c => executeWord c s
  | .resetInput => .next (resetCore s)
  | .resetDuring c => .next (cutShort c s)
  | .breach b => .fault (.portBreach b)

/-- One step of the port: the first of the host's inputs is taken; with none, the CORE holds its state between commands
(R176; log entry 3). -/
def portStep (s : State) : Result :=
  match s.inputs with
  | [] => .next s
  | x :: rest => takeInput x (setInputs rest s)

/-- Put a command word where the next step takes it. -/
def presentWord (c : Command) (s : State) : State := setInputs (.word c :: s.inputs) s

end Sys2Proof.Machine
end

