-- ==== Sys2Proof/Machine/Step.lean ====
section
/-! DEFINITION. One step of the CORE: one transaction of its port (spec/10_state.md R20, R21). -/

namespace Sys2Proof.Machine

/-- One step (R20, R21, R67). -/
def step (s : State) : Host.Outcome State Fault Refusal := portStep s

/-- `s` with the table word placed as the host's next command word, so that the next step takes and runs exactly it. -/
def State.withFetchWord (s : State) (nbits w : Nat) : State := presentWord (tableWord nbits w) s

end Sys2Proof.Machine
end

