-- ==== Sys2Proof/Machine/HostSequence.lean ====
section
/-! DEFINITION. The host's side (spec/45_container_sequence.md): the pseudo-instructions of spec/30_encoding.md R69, issuing
commands and reading the status of every response (R150, R197), and the canonical sequence that makes an EncodedImage
(R149). These rules bind the host, not the CORE (R140); the Compression Collaborator is an argument, an uninterpreted
function that may fail (R144). -/

namespace Sys2Proof.Machine

/-! ### The bytes of an EncodedImage -/

/-- SIGNATURE (R4, R142): the host writes these bytes itself. -/
def signature : List Byte := [0x89#8, 0x50#8, 0x4E#8, 0x47#8, 0x0D#8, 0x0A#8, 0x1A#8, 0x0A#8]

/-- `'IHDR'`. PRESUMED (log entry 10): the ASCII codes, G1 of spec/93_implementation_defined.md. -/
def tagIhdr : Word := 0x49484452#32

/-- `'IDAT'`. PRESUMED (log entry 10): the ASCII codes, G2 of spec/93_implementation_defined.md. -/
def tagIdat : Word := 0x49444154#32

/-- `'IEND'` (R146). -/
def tagIend : Word := 0x49454E44#32

/-- Bit depth 8, colour model 2, compression, filter and interlace method 0 (R4, R143). -/
def headerFixedBytes : List Byte := [0x08#8, 0x02#8, 0x00#8, 0x00#8, 0x00#8]

/-- The 13 bytes of the header payload (R143). -/
def headerPayload (w h : Word) : List Byte := bew w ++ bew h ++ headerFixedBytes

/-- The EncodedImage of a `w` by `h` grid whose compressed bytes are `z` (R148). -/
def encodedImage (w h : Word) (z : List Byte) : List Byte :=
  signature ++ chunk tagIhdr (headerPayload w h) ++ chunk tagIdat z ++ chunk tagIend []

/-! ### Pseudo-instructions -/

/-- The command of one pixel. -/
def pixelCommand (p : Pixel) : Instr := .slpPix p.red p.green p.blue

/-- The commands of one row: its pixels, then SLP.EOR (R100 section 2, R69 SLP.ROW). -/
def rowCommands (ps : List Pixel) : List Instr := ps.map pixelCommand ++ [.slpEor]

/-- The expansion of a pseudo-instruction (R69). -/
def expand : Pseudo → List Instr
  | .crcBytes bs => bs.map .crcUpd
  | .crcOf bs => .crcInit :: (bs.map .crcUpd ++ [.crcFin])
  | .chbPushs bs => bs.map .chbPushb
  | .slpRow ps => rowCommands ps
  | .slpGrid w h => [.slpSetw w, .slpSeth h, .slpBegin]
  | .pngIhdr w h => [.chbPushw w, .chbPushw h] ++ headerFixedBytes.map .chbPushb ++ [.chbBuild tagIhdr]
  | .pngIdat bs => bs.map .chbPushb ++ [.chbBuild tagIdat]
  | .pngIend => [.chbBuild tagIend]

/-- The canonical sequence of a payload and a tag (spec/43_chb.md section 2). -/
def chunkCommands (t : Word) (p : List Byte) : List Instr := p.map .chbPushb ++ [.chbBuild t]

/-- The width operand of a grid. -/
def widthWord (g : PixelGrid) : Word := BitVec.ofNat 32 (gridWidth g)

/-- The height operand of a grid. -/
def heightWord (g : PixelGrid) : Word := BitVec.ofNat 32 g.length

/-- The canonical sequence of a grid (spec/42_slp.md section 2). -/
def packCommands (g : PixelGrid) : List Instr :=
  expand (.slpGrid (widthWord g) (heightWord g)) ++ g.flatMap rowCommands ++ [.slpPack]

/-! ### Issuing commands -/

/-- Issue commands one after the other (R21), whatever their responses. -/
def execAll : List Instr → State → Result
  | [], s => .next s
  | i :: rest, s =>
    match exec i s with
    | .next t => execAll rest t
    | .fault f => .fault f
    | .refused r => .refused r

/-- The last response of a state; OK with no data if there is none. -/
def lastResponse (s : State) : Response :=
  match s.rsp.getLast? with
  | some r => r
  | none => ⟨0x00#8, []⟩

/-- How a careful host's run of commands ends. -/
inductive Issued where
  /-- every response was OK: their data in order, and the state -/
  | ok (data : List Byte) (s : State)
  /-- the first non-zero status, and the state after it -/
  | failed (status : Byte) (s : State)
  /-- the CORE stopped; no command does this -/
  | stopped
  deriving DecidableEq, Repr

/-- Issue commands, checking each status and stopping at the first that is not OK (R150, R197). -/
def issue : List Instr → State → Issued
  | [], s => .ok [] s
  | i :: rest, s =>
    match exec i s with
    | .next t =>
      if (lastResponse t).status = 0x00#8 then
        match issue rest t with
        | .ok data u => .ok ((lastResponse t).data ++ data) u
        | .failed status u => .failed status u
        | .stopped => .stopped
      else .failed (lastResponse t).status t
    | .fault _ => .stopped
    | .refused _ => .stopped

/-! ### The canonical host sequence -/

/-- The host's errors (R151); `coreFault` carries a status outside DOC00's taxonomy. -/
inductive HostError where
  | malformedInput
  | colorComponentOutOfRange (row col : Nat)
  | compressionFailure
  | coreFault (status : Byte)
  | coreStopped
  deriving DecidableEq, Repr

/-- A non-zero status as the host reports it (R151). -/
def hostErrorOf (status : Byte) : HostError :=
  if status = faultCode .malformedInput then .malformedInput else .coreFault status

/-- Abandon the image (R150): discard every byte, issue SYS.RST, report the failure. -/
def abandon (e : HostError) (s : State) : Except HostError (List Byte) × State :=
  match exec .sysRst s with
  | .next t => (.error e, t)
  | .fault _ => (.error .coreStopped, s)
  | .refused _ => (.error .coreStopped, s)

/-- Steps 6 to 8 of R149. -/
def buildCommands (w h : Word) (z : List Byte) : List Instr :=
  expand (.pngIhdr w h) ++ expand (.pngIdat z) ++ expand .pngIend

/-- The canonical host sequence of R149 for a grid, step by step, with `compress` the Compression Collaborator (R144).
DESIGN CHOICES (log entry 13): SYS.RST is issued first; the width is that of the first row; a dimension that does not fit 32
bits is refused by the host, since no command can carry it (U9); and the host compares neither the packed size with SLB_CAP
nor `N` with PB_CAP before issuing (R155, R198): a size that does not fit ends in CAPACITY and R150. -/
def encodeImage (compress : List Byte → Option (List Byte)) (g : PixelGrid) (s : State) :
    Except HostError (List Byte) × State :=
  if g.length < 2 ^ 32 ∧ gridWidth g < 2 ^ 32 then
    match issue (.sysRst :: packCommands g) s with
    | .failed status t => abandon (hostErrorOf status) t
    | .stopped => (.error .coreStopped, s)
    | .ok packed t =>
      match compress packed with
      | none => (.error .compressionFailure, t)
      | some z =>
        match issue (buildCommands (widthWord g) (heightWord g) z) t with
        | .failed status u => abandon (hostErrorOf status) u
        | .stopped => (.error .coreStopped, t)
        | .ok chunks u => (.ok (signature ++ chunks), u)
  else (.error .malformedInput, s)

/-! ### A host that holds components in integers -/

/-- The position of the first component outside 0 to 255 in a row (R151), counting columns from `col`. -/
def badColumn : List WideColor → Nat → Option Nat
  | [], _ => none
  | c :: rest, col => if c.inRange then badColumn rest (col + 1) else some col

/-- The row and column of the first component outside 0 to 255 (R151, R163), counting rows from `row`. -/
def badComponent : List (List WideColor) → Nat → Option (Nat × Nat)
  | [], _ => none
  | cs :: rest, row =>
    match badColumn cs 0 with
    | some col => some (row, col)
    | none => badComponent rest (row + 1)

/-- A colour whose components are within 0 to 255, as a pixel. -/
def narrowColor (c : WideColor) : Pixel :=
  ⟨BitVec.ofInt 8 c.red, BitVec.ofInt 8 c.green, BitVec.ofInt 8 c.blue⟩

/-- The host's check before it forms a command word (R151, R163): the row and column of the offending component, or the
grid of 8-bit components. DESIGN CHOICE (log entry 13): the whole grid's components are checked before any command, so a
component out of range is reported even where the grid is malformed too; the spec gives no order for the two. -/
def narrowGrid (g : List (List WideColor)) : Except HostError PixelGrid :=
  match badComponent g 0 with
  | some (row, col) => .error (.colorComponentOutOfRange row col)
  | none => .ok (g.map fun cs => cs.map narrowColor)

end Sys2Proof.Machine
end

