-- ==== Sys2Proof/Machine/Assembler.lean ====
section
/-! DEFINITION. The assembler notation of spec/30_encoding.md R68, the pseudo-instructions' text (R69) and disassembly (R71).
Text is a list of characters. What R68 leaves open of the notation is log entry 12. -/

namespace Sys2Proof.Machine

/-! ### Tokens -/

/-- The parts of a line. -/
inductive Token where
  /-- a mnemonic, or `.illegal` -/
  | name (cs : List Char)
  /-- a number, decimal or after `0x` hexadecimal -/
  | num (n : Nat)
  /-- a tag literal: the word whose big-endian bytes are the four characters' codes -/
  | tag (w : Word)
  | comma
  | lpar
  | rpar
  deriving DecidableEq, Repr

/-- Why a line is no command. An assembler error is no command and no fault of the CORE (R68). -/
inductive AsmError where
  /-- a part of the line is neither a mnemonic, a number, a tag nor punctuation -/
  | badToken
  /-- no command or pseudo-instruction of this name -/
  | unknownMnemonic
  /-- the operands do not have the mnemonic's form -/
  | badOperands
  /-- an operand does not fit its field (R68) -/
  | operandTooWide
  deriving DecidableEq, Repr

/-- The value of a hexadecimal digit. -/
def digitValue (c : Char) : Option Nat :=
  if 48 ≤ c.toNat ∧ c.toNat ≤ 57 then some (c.toNat - 48)
  else if 65 ≤ c.toNat ∧ c.toNat ≤ 70 then some (c.toNat - 55)
  else if 97 ≤ c.toNat ∧ c.toNat ≤ 102 then some (c.toNat - 87)
  else none

/-- Read digits in a base, most significant first, after the digits read so far. -/
def readDigits (base : Nat) : List Char → Nat → Option Nat
  | [], acc => some acc
  | c :: rest, acc =>
    match digitValue c with
    | some d => if d < base then readDigits base rest (acc * base + d) else none
    | none => none

/-- A character that can stand in a mnemonic. -/
def nameChar (c : Char) : Bool := decide (65 ≤ c.toNat ∧ c.toNat ≤ 90) || decide (97 ≤ c.toNat ∧ c.toNat ≤ 122) || c == '.'

/-- The token a run of characters stands for. -/
def classify (cs : List Char) : Option Token :=
  match cs with
  | [] => none
  | '0' :: 'x' :: d :: ds => (readDigits 16 (d :: ds) 0).map .num
  | c :: rest =>
    if 48 ≤ c.toNat ∧ c.toNat ≤ 57 then (readDigits 10 (c :: rest) 0).map .num
    else if (c :: rest).all nameChar then some (.name (c :: rest))
    else none

/-- End the run of characters read so far (kept in reverse) in front of the tokens after it. -/
def endRun (run : List Char) (after : Option (List Token)) : Option (List Token) :=
  match run, after with
  | _, none => none
  | [], some ts => some ts
  | c :: cs, some ts => (classify (c :: cs).reverse).map (· :: ts)

/-- The byte of an ASCII character. -/
def asciiByte (c : Char) : Option Byte := if c.toNat < 128 then some (BitVec.ofNat 8 c.toNat) else none

/-- The word of a tag literal (spec/00_scope.md section 6.1). -/
def tagWord (a b c d : Char) : Option Word :=
  match asciiByte a, asciiByte b, asciiByte c, asciiByte d with
  | some w3, some w2, some w1, some w0 => some (wordOfBytes w3 w2 w1 w0)
  | _, _, _, _ => none

/-- Put a token, if there is one, in front of others. -/
def consToken (t : Option Token) (after : Option (List Token)) : Option (List Token) :=
  match t, after with
  | some t, some ts => some (t :: ts)
  | _, _ => none

/-- The tokens of a line; `run` holds the current run of characters in reverse. White space separates, `;` starts a
comment (R68). DESIGN CHOICE (log entry 12): a tag literal, a bracket or a comma ends a run too, so no white space need stand
between a mnemonic and a tag literal or a bracket, nor around punctuation. -/
def lex : List Char → List Char → Option (List Token)
  | run, [] => endRun run (some [])
  | run, '\'' :: a :: b :: c :: d :: '\'' :: rest =>
    endRun run (consToken ((tagWord a b c d).map .tag) (lex [] rest))
  | run, ch :: rest =>
    if ch = ';' then endRun run (some [])
    else if ch = ' ' ∨ ch = '\t' ∨ ch = '\r' then endRun run (lex [] rest)
    else if ch = ',' then endRun run (consToken (some .comma) (lex [] rest))
    else if ch = '(' then endRun run (consToken (some .lpar) (lex [] rest))
    else if ch = ')' then endRun run (consToken (some .rpar) (lex [] rest))
    else lex (ch :: run) rest

/-! ### Operands -/

/-- Numbers after the first, each behind a comma. -/
def moreNumbers : List Token → Option (List Nat)
  | [] => some []
  | .comma :: .num n :: rest => (moreNumbers rest).map (n :: ·)
  | _ => none

/-- Numbers separated by commas; none at all is a list too. -/
def numbers : List Token → Option (List Nat)
  | [] => some []
  | .num n :: rest => (moreNumbers rest).map (n :: ·)
  | _ => none

/-- Pixels `(r, g, b)` after the first, each behind a comma. -/
def morePixels : List Token → Option (List WideColor)
  | [] => some []
  | .comma :: .lpar :: .num r :: .comma :: .num g :: .comma :: .num b :: .rpar :: rest =>
    (morePixels rest).map (⟨r, g, b⟩ :: ·)
  | _ => none

/-- Pixels `(r, g, b)` separated by commas. -/
def pixels : List Token → Option (List WideColor)
  | .lpar :: .num r :: .comma :: .num g :: .comma :: .num b :: .rpar :: rest =>
    (morePixels rest).map (⟨r, g, b⟩ :: ·)
  | _ => none

/-- One command. -/
def oneCommand (i : Instr) : Except AsmError (List Command) := .ok [encode i]

/-- A command without operand. -/
def asmN (i : Instr) (ops : List Token) : Except AsmError (List Command) :=
  match ops with
  | [] => oneCommand i
  | _ => .error .badOperands

/-- A command with a byte operand: above 255 is an error (R68). -/
def asmB (make : Byte → Instr) (ops : List Token) : Except AsmError (List Command) :=
  match ops with
  | [.num n] => if n < 2 ^ 8 then oneCommand (make (BitVec.ofNat 8 n)) else .error .operandTooWide
  | _ => .error .badOperands

/-- A command with a word operand: above `2^32 - 1` is an error (R68). -/
def asmW (make : Word → Instr) (ops : List Token) : Except AsmError (List Command) :=
  match ops with
  | [.num n] => if n < 2 ^ 32 then oneCommand (make (BitVec.ofNat 32 n)) else .error .operandTooWide
  | _ => .error .badOperands

/-- CHB.BUILD: a tag literal or a word (R68). -/
def asmTag (ops : List Token) : Except AsmError (List Command) :=
  match ops with
  | [.tag w] => oneCommand (.chbBuild w)
  | _ => asmW .chbBuild ops

/-- SLP.PIX: three components, each 0 to 255 (R68). -/
def asmP (ops : List Token) : Except AsmError (List Command) :=
  match ops with
  | [.num r, .comma, .num g, .comma, .num b] =>
    if (WideColor.inRange ⟨r, g, b⟩) = true then oneCommand (pixelCommand (narrowColor ⟨r, g, b⟩))
    else .error .operandTooWide
  | _ => .error .badOperands

/-- The commands of a pseudo-instruction. -/
def asmPseudo (p : Pseudo) : Except AsmError (List Command) := .ok ((expand p).map encode)

/-- A pseudo-instruction over bytes; `allowNone`: with no bytes too (R69: CRC.OF). That the others take at least one byte is a
DESIGN CHOICE (log entry 12). -/
def asmBytes (allowNone : Bool) (make : List Byte → Pseudo) (ops : List Token) : Except AsmError (List Command) :=
  match numbers ops with
  | none => .error .badOperands
  | some ns =>
    if ns.isEmpty && !allowNone then .error .badOperands
    else if ns.all (fun n => decide (n < 2 ^ 8)) then asmPseudo (make (ns.map (BitVec.ofNat 8))) else .error .operandTooWide

/-- A pseudo-instruction over a width and a height. -/
def asmSize (make : Word → Word → Pseudo) (ops : List Token) : Except AsmError (List Command) :=
  match ops with
  | [.num w, .comma, .num h] =>
    if w < 2 ^ 32 ∧ h < 2 ^ 32 then asmPseudo (make (BitVec.ofNat 32 w) (BitVec.ofNat 32 h)) else .error .operandTooWide
  | _ => .error .badOperands

/-- SLP.ROW. DESIGN CHOICE (log entry 12): at least one pixel; R69 lets only CRC.OF have an empty list, and says nothing of an
empty row. -/
def asmRow (ops : List Token) : Except AsmError (List Command) :=
  match pixels ops with
  | none => .error .badOperands
  | some cs => if cs.all WideColor.inRange then asmPseudo (.slpRow (cs.map narrowColor)) else .error .operandTooWide

/-- PNG.IEND. -/
def asmIend (ops : List Token) : Except AsmError (List Command) :=
  match ops with
  | [] => asmPseudo .pngIend
  | _ => .error .badOperands

/-- `.illegal`: the word itself, ten hexadecimal digits (R71). -/
def asmIllegal (ops : List Token) : Except AsmError (List Command) :=
  match ops with
  | [.num n] => if n < 2 ^ 40 then .ok [BitVec.ofNat 40 n] else .error .operandTooWide
  | _ => .error .badOperands

/-! ### Mnemonics -/

/-- The characters of a command's mnemonic (R63). -/
def mnemonicChars : Instr → List Char
  | .bewEnc _ => ['B', 'E', 'W', '.', 'E', 'N', 'C']
  | .crcInit => ['C', 'R', 'C', '.', 'I', 'N', 'I', 'T']
  | .crcUpd _ => ['C', 'R', 'C', '.', 'U', 'P', 'D']
  | .crcFin => ['C', 'R', 'C', '.', 'F', 'I', 'N']
  | .slpSetw _ => ['S', 'L', 'P', '.', 'S', 'E', 'T', 'W']
  | .slpSeth _ => ['S', 'L', 'P', '.', 'S', 'E', 'T', 'H']
  | .slpBegin => ['S', 'L', 'P', '.', 'B', 'E', 'G', 'I', 'N']
  | .slpPix _ _ _ => ['S', 'L', 'P', '.', 'P', 'I', 'X']
  | .slpEor => ['S', 'L', 'P', '.', 'E', 'O', 'R']
  | .slpPack => ['S', 'L', 'P', '.', 'P', 'A', 'C', 'K']
  | .chbPushb _ => ['C', 'H', 'B', '.', 'P', 'U', 'S', 'H', 'B']
  | .chbPushw _ => ['C', 'H', 'B', '.', 'P', 'U', 'S', 'H', 'W']
  | .chbBuild _ => ['C', 'H', 'B', '.', 'B', 'U', 'I', 'L', 'D']
  | .sysRst => ['S', 'Y', 'S', '.', 'R', 'S', 'T']

/-- `.illegal` (R71). -/
def illegalChars : List Char := ['.', 'i', 'l', 'l', 'e', 'g', 'a', 'l']

/-- The commands and pseudo-instructions by name, each with the reader of its operands (R63, R69). -/
def mnemonicTable : List (List Char × (List Token → Except AsmError (List Command))) :=
  [ (mnemonicChars (.bewEnc 0#32), asmW .bewEnc),
    (mnemonicChars .crcInit, asmN .crcInit),
    (mnemonicChars (.crcUpd 0#8), asmB .crcUpd),
    (mnemonicChars .crcFin, asmN .crcFin),
    (mnemonicChars (.slpSetw 0#32), asmW .slpSetw),
    (mnemonicChars (.slpSeth 0#32), asmW .slpSeth),
    (mnemonicChars .slpBegin, asmN .slpBegin),
    (mnemonicChars (.slpPix 0#8 0#8 0#8), asmP),
    (mnemonicChars .slpEor, asmN .slpEor),
    (mnemonicChars .slpPack, asmN .slpPack),
    (mnemonicChars (.chbPushb 0#8), asmB .chbPushb),
    (mnemonicChars (.chbPushw 0#32), asmW .chbPushw),
    (mnemonicChars (.chbBuild 0#32), asmTag),
    (mnemonicChars .sysRst, asmN .sysRst),
    (illegalChars, asmIllegal),
    (['C', 'R', 'C', '.', 'B', 'Y', 'T', 'E', 'S'], asmBytes false .crcBytes),
    (['C', 'R', 'C', '.', 'O', 'F'], asmBytes true .crcOf),
    (['C', 'H', 'B', '.', 'P', 'U', 'S', 'H', 'S'], asmBytes false .chbPushs),
    (['S', 'L', 'P', '.', 'R', 'O', 'W'], asmRow),
    (['S', 'L', 'P', '.', 'G', 'R', 'I', 'D'], asmSize .slpGrid),
    (['P', 'N', 'G', '.', 'I', 'H', 'D', 'R'], asmSize .pngIhdr),
    (['P', 'N', 'G', '.', 'I', 'D', 'A', 'T'], asmBytes false .pngIdat),
    (['P', 'N', 'G', '.', 'I', 'E', 'N', 'D'], asmIend) ]

/-- The reader of a mnemonic's operands. -/
def readerOf (m : List Char) :
    List (List Char × (List Token → Except AsmError (List Command))) → Option (List Token → Except AsmError (List Command))
  | [] => none
  | (k, f) :: rest => if m = k then some f else readerOf m rest

/-- The command words of one line; an empty line, or a comment alone, has none (R68, R69). -/
def assembleLine (line : List Char) : Except AsmError (List Command) :=
  match lex [] line with
  | none => .error .badToken
  | some [] => .ok []
  | some (.name m :: ops) =>
    match readerOf m mnemonicTable with
    | some f => f ops
    | none => .error .unknownMnemonic
  | some _ => .error .badToken

/-- The lines of a text; `line` holds the current one in reverse. -/
def splitLines : List Char → List Char → List (List Char)
  | line, [] => [line.reverse]
  | line, c :: rest => if c = '\n' then line.reverse :: splitLines [] rest else splitLines (c :: line) rest

/-- The words of the lines, or the first error and no word of any line. DESIGN CHOICE (log entry 12): R68 says nothing of the
other lines of a text with an assembler error. -/
def assembleLines : List (List Char) → Except AsmError (List Command)
  | [] => .ok []
  | line :: rest =>
    match assembleLine line, assembleLines rest with
    | .ok cs, .ok ds => .ok (cs ++ ds)
    | .error e, _ => .error e
    | _, .error e => .error e

/-- The command words of a text, one command or pseudo-instruction per line (R68). -/
def assemble (text : List Char) : Except AsmError (List Command) := assembleLines (splitLines [] text)

/-! ### Disassembly -/

/-- The sixteen hexadecimal digits, in upper case as the examples of R68 are: DEDUCED (log entry 12). -/
def hexDigits : List Char := ['0', '1', '2', '3', '4', '5', '6', '7', '8', '9', 'A', 'B', 'C', 'D', 'E', 'F']

/-- A digit of a number below 16. -/
def digitChar (n : Nat) : Char := (hexDigits[n]?).getD '0'

/-- A number in `k` hexadecimal digits. -/
def hexChars : Nat → Nat → List Char
  | 0, _ => []
  | k + 1, n => hexChars k (n / 16) ++ [digitChar (n % 16)]

/-- A byte in decimal. -/
def decimalChars (b : Byte) : List Char :=
  if b.toNat < 10 then [digitChar b.toNat]
  else if b.toNat < 100 then [digitChar (b.toNat / 10), digitChar (b.toNat % 10)]
  else [digitChar (b.toNat / 100), digitChar (b.toNat / 10 % 10), digitChar (b.toNat % 10)]

/-- A hexadecimal operand of `k` digits behind a mnemonic. -/
def hexOperand (k n : Nat) : List Char := ' ' :: '0' :: 'x' :: hexChars k n

/-- The operands of a command as R71 prints them. -/
def operandChars : Instr → List Char
  | .bewEnc w => hexOperand 8 w.toNat
  | .crcInit => []
  | .crcUpd b => hexOperand 2 b.toNat
  | .crcFin => []
  | .slpSetw w => hexOperand 8 w.toNat
  | .slpSeth h => hexOperand 8 h.toNat
  | .slpBegin => []
  | .slpPix r g b => ' ' :: decimalChars r ++ [',', ' '] ++ decimalChars g ++ [',', ' '] ++ decimalChars b
  | .slpEor => []
  | .slpPack => []
  | .chbPushb b => hexOperand 2 b.toNat
  | .chbPushw w => hexOperand 8 w.toNat
  | .chbBuild t => hexOperand 8 t.toNat
  | .sysRst => []

/-- One command word as text (R71). -/
def disassemble (c : Command) : List Char :=
  match decode c with
  | .ok i => mnemonicChars i ++ operandChars i
  | .error _ => illegalChars ++ hexOperand 10 c.toNat

end Sys2Proof.Machine
end

