-- ==== Sys2Proof/Machine/Cores.lean ====
section
/-! DEFINITION. Several COREs (spec/60_exceptions.md R177): each has its own state and its own command port, and they share
nothing. A CORE is held as what its run has come to, so that one whose host broke the port's protocol is stuck (U4) while the
others go on. Which of them moves is the hosts' affair, so it is an argument (DESIGN CHOICE, log entry 14). -/

namespace Sys2Proof.Machine

/-- One step of a CORE, from what its run has come to; a stuck CORE stays stuck (U4, log entry 6). -/
def advance (r : Result) : Result :=
  match r with
  | .next s => step s
  | .fault f => .fault f
  | .refused r => .refused r

/-- One step of the `k`-th of several COREs, whatever it comes to; every other CORE is as it was, and nothing moves if there
is no `k`-th. -/
def stepNth (k : Nat) (cores : List Result) : List Result := cores.modify k advance

/-- One step of the `j`-th and then one of the `k`-th CORE. -/
def stepBoth (j k : Nat) (cores : List Result) : List Result := stepNth k (stepNth j cores)

/-- Steps of several COREs, one after the other, in the order given. -/
def stepMany (order : List Nat) (cores : List Result) : List Result :=
  order.foldl (fun cores k => stepNth k cores) cores

end Sys2Proof.Machine
end

