-- ==== Sys2Proof/Safety.lean ====
section
/-! DEFINITION. What counts as a state that a run can reach (the invariants of spec/10_state.md R33 and the fault codes of
spec/60_exceptions.md R160) and as a run that ended well (spec/10_state.md R37), and the frames the statements speak of. -/

namespace Sys2Proof.Machine

/-- A buffer within its capacity (R24, R25): the only well-formedness a buffer has. -/
def bufferWithin (cap : Nat) (buf : List Byte) : Bool := decide (buf.length ≤ cap)

/-- Both buffers are within their capacities (R33 items 1 and 6). -/
def State.memWf (s : State) : Bool := bufferWithin s.cfg.pbCap s.pb && bufferWithin s.cfg.slbCap s.slb

/-- The bytes of the row now open: none before its first pixel, else the filter-type byte and 3 per pixel (R33 item 5). -/
def openRowBytes (col : Word) : Nat := if col = 0#32 then 0 else 1 + 3 * col.toNat

/-- R33 item 3: a Scanline Packer without a grid. -/
structure PackerAtRest (s : State) : Prop where
  row : s.row = 0#32
  col : s.col = 0#32
  slb : s.slb = []

/-- R33 items 4 and 5: a Scanline Packer with a grid. -/
structure PackerAtWork (s : State) : Prop where
  width : 1 ≤ s.width.toNat
  height : 1 ≤ s.height.toNat
  row : s.row.toNat ≤ s.height.toNat
  col : s.col.toNat ≤ s.width.toNat
  fits : packedSize s.width s.height ≤ s.cfg.slbCap
  lastRow : s.row = s.height → s.col = 0#32
  length : s.slb.length = s.row.toNat * (3 * s.width.toNat + 1) + openRowBytes s.col

/-- The invariants of R33, with the constraints of R5 on the parameters. -/
structure State.Inv (s : State) : Prop where
  capacities : s.cfg.legal = true
  payload : s.pb.length ≤ s.cfg.pbCap
  modeErr : s.mode = .run ↔ s.err = 0x00#8
  rest : s.active = false → PackerAtRest s
  work : s.active = true → PackerAtWork s

/-- The values ERR and a status byte can take (R160, R163: `0x03` is never raised). -/
def codeProduced (code : Byte) : Bool :=
  code == 0x00#8 || code == 0x01#8 || code == 0x02#8 || code == 0x10#8 || code == 0x11#8

/-- A response keeps the contract of R70: a produced code, and no data unless the status is OK. -/
def responseSound (r : Response) : Bool := codeProduced r.status && (r.status == 0x00#8 || r.data.isEmpty)

/-- ERR and every response delivered so far keep the contract of R70 and R160. -/
def State.codesSound (s : State) : Bool := codeProduced s.err && s.rsp.all responseSound

/-- The two states agree in the ten items of R22. -/
structure SameItems (s t : State) : Prop where
  acc : t.acc = s.acc
  width : t.width = s.width
  height : t.height = s.height
  row : t.row = s.row
  col : t.col = s.col
  active : t.active = s.active
  slb : t.slb = s.slb
  pb : t.pb = s.pb
  mode : t.mode = s.mode
  err : t.err = s.err

/-- The state of the Scanline Packer is the same (R24, R26, R29). -/
structure SamePacker (s t : State) : Prop where
  width : t.width = s.width
  height : t.height = s.height
  row : t.row = s.row
  col : t.col = s.col
  active : t.active = s.active
  slb : t.slb = s.slb

/-- What no command ever writes: the parameters (R36), what the host does next, and the model's own counter. -/
structure SameEnvironment (s t : State) : Prop where
  cfg : t.cfg = s.cfg
  inputs : t.inputs = s.inputs
  freeUses : t.freeUses = s.freeUses

/-- `k` steps, one after the other, stopping where a step stops. -/
def runSteps : Nat → State → Result
  | 0, s => .next s
  | k + 1, s =>
    match step s with
    | .next t => runSteps k t
    | .fault f => .fault f
    | .refused r => .refused r

/-- A run has ended well (R37): no response carried a non-zero status and the CORE is idle. DESIGN CHOICE (log entry 15): the
run that is judged is all that has executed so far, the responses in RSP; words still in `inputs` are not part of it, so it
holds at reset with words pending. R37 says only "a finite command sequence". -/
def State.endedWell (s : State) : Bool := s.rsp.all (fun r => r.status == 0x00#8) && idle s

/-! ### What a command may write, read and raise, as the spec's tables list it -/

/-- `s` after a command that answered OK with `data` (R70) and wrote nothing else. -/
def answered (data : List Byte) (s : State) : State := { s with rsp := s.rsp ++ [⟨0x00#8, data⟩] }

/-- `s` after a command that raised the fault `c` (R167). -/
def faulted (c : FaultCode) (s : State) : State :=
  { s with mode := .fault, err := faultCode c, rsp := s.rsp ++ [⟨faultCode c, []⟩] }

/-- The columns of the table of R22. -/
inductive Item where
  | acc
  | width
  | height
  | row
  | col
  | active
  | slb
  | pb
  deriving DecidableEq, Repr

/-- The W entries of the table of R22. -/
def writesItem (i : Instr) (x : Item) : Bool :=
  match i with
  | .bewEnc _ => false
  | .crcInit => x == .acc
  | .crcUpd _ => x == .acc
  | .crcFin => false
  | .slpSetw _ => x == .width
  | .slpSeth _ => x == .height
  | .slpBegin => x == .row || x == .col || x == .active || x == .slb
  | .slpPix _ _ _ => x == .col || x == .slb
  | .slpEor => x == .row || x == .col
  | .slpPack => x == .row || x == .col || x == .active || x == .slb
  | .chbPushb _ => x == .pb
  | .chbPushw _ => x == .pb
  | .chbBuild _ => x == .acc || x == .pb
  | .sysRst => true

/-- The R entries of the table of R22. -/
def readsItem (i : Instr) (x : Item) : Bool :=
  match i with
  | .bewEnc _ => false
  | .crcInit => false
  | .crcUpd _ => x == .acc
  | .crcFin => x == .acc
  | .slpSetw _ => x == .active
  | .slpSeth _ => x == .active
  | .slpBegin => x == .width || x == .height || x == .active
  | .slpPix _ _ _ => x == .width || x == .height || x == .row || x == .col || x == .active
  | .slpEor => x == .width || x == .height || x == .row || x == .col || x == .active
  | .slpPack => x == .height || x == .row || x == .col || x == .active || x == .slb
  | .chbPushb _ => x == .pb
  | .chbPushw _ => x == .pb
  | .chbBuild _ => x == .pb
  | .sysRst => false

/-- The two states agree in one item. -/
def sameItem (x : Item) (s t : State) : Prop :=
  match x with
  | .acc => t.acc = s.acc
  | .width => t.width = s.width
  | .height => t.height = s.height
  | .row => t.row = s.row
  | .col => t.col = s.col
  | .active => t.active = s.active
  | .slb => t.slb = s.slb
  | .pb => t.pb = s.pb

/-- `s` with one item as it is in `u`. -/
def withItemOf (x : Item) (s u : State) : State :=
  match x with
  | .acc => { s with acc := u.acc }
  | .width => { s with width := u.width }
  | .height => { s with height := u.height }
  | .row => { s with row := u.row }
  | .col => { s with col := u.col }
  | .active => { s with active := u.active }
  | .slb => { s with slb := u.slb }
  | .pb => { s with pb := u.pb }

/-- The table of R178; ILLEGAL_COMMAND belongs to words that are no command, and `0x03` to nothing (R163). -/
def mayRaise (i : Instr) (c : FaultCode) : Bool :=
  match i with
  | .bewEnc _ => false
  | .crcInit => false
  | .crcUpd _ => false
  | .crcFin => false
  | .slpSetw _ => c == .protocol
  | .slpSeth _ => c == .protocol
  | .slpBegin => c == .malformedInput || c == .protocol || c == .capacity
  | .slpPix _ _ _ => c == .malformedInput || c == .protocol
  | .slpEor => c == .malformedInput || c == .protocol
  | .slpPack => c == .malformedInput || c == .protocol
  | .chbPushb _ => c == .capacity
  | .chbPushw _ => c == .capacity
  | .chbBuild _ => false
  | .sysRst => false

/-- The length of the data of an OK response (R70). -/
def responseLength (i : Instr) (s : State) : Nat :=
  match i with
  | .bewEnc _ => 4
  | .crcInit => 0
  | .crcUpd _ => 0
  | .crcFin => 4
  | .slpSetw _ => 0
  | .slpSeth _ => 0
  | .slpBegin => 0
  | .slpPix _ _ _ => 0
  | .slpEor => 0
  | .slpPack => s.height.toNat * (3 * s.width.toNat + 1)
  | .chbPushb _ => 0
  | .chbPushw _ => 0
  | .chbBuild _ => 12 + s.pb.length
  | .sysRst => 0

/-! ### What the scanline buffer holds -/

/-- The bytes of a row that is still open: none before its first pixel (R105). -/
def openBytes (ps : List Pixel) : List Byte := if ps = [] then [] else rowBytes ps

/-- The packed rows so far, as a grid of closed rows and the pixels of the open one (R100, R108). -/
structure PackedSoFar (s : State) (closed : PixelGrid) (opened : List Pixel) : Prop where
  rowCount : closed.length = s.row.toNat
  rowsFull : ∀ r ∈ closed, r.length = s.width.toNat
  colCount : opened.length = s.col.toNat
  bytes : s.slb = pack closed ++ openBytes opened

/-- While a grid is being packed, SLB holds the packed form of a part of some grid. -/
def State.GridInv (s : State) : Prop :=
  s.active = true →
    1 ≤ s.width.toNat ∧ s.row.toNat ≤ s.height.toNat ∧ s.col.toNat ≤ s.width.toNat ∧ ∃ closed opened, PackedSoFar s closed opened

end Sys2Proof.Machine
end

