-- ==== Sys2Proof/Certificates/Slice0/Obligations.lean ====
section
/-! DEFINITION. The statements for the provers. Each docstring names the rules of spec/ it comes from. Capacities are never
fixed: every statement holds for every PB_CAP and SLB_CAP, within R5 where its premises say so. -/

open Sys2Proof Sys2Proof.Machine

/-! ### Encoding -/

/-- R62 to R64: words of each family, written out, decode to their commands; reserved bits and unknown opcodes do not. The
words are, in order, E1, P1's first, E2, a pixel of no vector worked out from R62, L3's first, P2's third, H1, E14, E15, E3,
E7, E11 and E12 of spec/95_test_vectors.md, the pixel apart. -/
def Obligations.SampleWordsDecode : Prop :=
  decode 0x01FFFFFFFF#40 = .ok (.bewEnc 0xFFFFFFFF#32) ∧
  decode 0x1000000000#40 = .ok .crcInit ∧
  decode 0x11000000FF#40 = .ok (.crcUpd 0xFF#8) ∧
  decode 0x2300FF0A0B#40 = .ok (.slpPix 0xFF#8 0x0A#8 0x0B#8) ∧
  decode 0x2000000008#40 = .ok (.slpSetw 8#32) ∧
  decode 0x3000000008#40 = .ok (.chbPushb 8#8) ∧
  decode 0x3249454E44#40 = .ok (.chbBuild 0x49454E44#32) ∧
  decode 0xF000000000#40 = .ok .sysRst ∧
  decode 0xF000000001#40 = .error (.reservedBitSet 0xF0#8) ∧
  decode 0x1100000100#40 = .error (.reservedBitSet 0x11#8) ∧
  decode 0x2301000000#40 = .error (.reservedBitSet 0x23#8) ∧
  decode 0x0000000000#40 = .error (.unknownOpcode 0x00#8) ∧
  decode 0xFFFFFFFFFF#40 = .error (.unknownOpcode 0xFF#8)

/-- R60 to R63: no operand bit is lost. Every command, at every operand, decodes from its own word. -/
def Obligations.DecodeEncodeAgree : Prop := ∀ i : Instr, decode (encode i) = .ok i

/-- R63, R64: a word that decodes is the one word of its command, so no two words are one command. -/
def Obligations.EveryCommandHasOneWord : Prop := ∀ (c : Command) (i : Instr), decode c = .ok i → encode i = c

/-- R63: the decoder is the table. A word is a row's command if and only if `c AND mask = match`, and no word matches two
rows. -/
def Obligations.DecoderMeetsOpcodeMap : Prop :=
  (∀ (c : Command) (r : OpcodeRow), r ∈ opcodeMap →
    ((∃ i, decode c = .ok i ∧ i.mnemonic = r.mnemonic) ↔ c &&& r.mask = r.pattern)) ∧
  (∀ (c : Command) (r q : OpcodeRow), r ∈ opcodeMap → q ∈ opcodeMap →
    c &&& r.mask = r.pattern → c &&& q.mask = q.pattern → r = q)

/-- R65, R161: a word is illegal exactly when it matches no row (the all-zero and the all-ones word among them), and executing
an illegal word in RUN mode raises ILLEGAL_COMMAND. -/
def Obligations.UnmatchedWordsAreIllegal : Prop :=
  (∀ c : Command, (∃ e, decode c = .error e) ↔ ∀ r ∈ opcodeMap, ¬(c &&& r.mask = r.pattern)) ∧
  (∃ e, decode 0x0000000000#40 = .error e) ∧ (∃ e, decode 0xFFFFFFFFFF#40 = .error e) ∧
  (∀ (c : Command) (e : Illegal) (s : State) (rest : List HostInput),
    decode c = .error e → s.mode = .run → s.inputs = .word c :: rest →
      step s = .next (faulted .illegalCommand { s with inputs := rest }))

/-- R46: a command word travels as 5 bytes, the opcode byte and then `BEW(operand)`, and the receiver gets the word back. -/
def Obligations.ByteTransportAgrees : Prop :=
  (∀ (c : Command) (rest : List Byte),
    transportBytes c = c.extractLsb' 32 8 :: bew (c.extractLsb' 0 32) ∧ (transportBytes c).length = 5 ∧
    receiveWord (transportBytes c ++ rest) = .ok (c, rest)) ∧
  (∀ (i : Instr) (rest : List Byte), decodeBytes (transportBytes (encode i) ++ rest) = .ok (i, rest))

/-- R71: "Assembling what was printed gives the word back", for every 40-bit word. -/
def Obligations.AssemblyOfDisassembly : Prop := ∀ c : Command, assembleLine (disassemble c) = .ok [c]

/-! ### The step -/

/-- R21, R66, R67: when the host's next word decodes to a command, the step is that command, executed on the state whose
first input is taken. -/
def Obligations.StepRunsDecodedCommand : Prop :=
  ∀ (s : State) (c : Command) (rest : List HostInput) (i : Instr),
    s.inputs = .word c :: rest → decode c = .ok i → step s = exec i { s with inputs := rest }

/-- R190, U4, R176: the reset input between commands leaves the reset state (R34); that it gives no response and keeps the
responses so far is the model's reading of R35 and R70 (log entry 4); a breach of the port's protocol stops the CORE (the
model's choice, log entry 6); with no input the CORE holds its state (the model's choice, log entry 3). -/
def Obligations.PortWithoutWord : Prop :=
  (∀ (s : State) (rest : List HostInput), s.inputs = .resetInput :: rest →
    step s = .next { State.resetWith s.cfg with rsp := s.rsp, inputs := rest, freeUses := s.freeUses }) ∧
  (∀ (s : State) (b : PortBreach) (rest : List HostInput), s.inputs = .breach b :: rest →
    step s = .fault (.portBreach b)) ∧
  (∀ s : State, s.inputs = [] → step s = .next s)

/-- U3, R190: the reset input during a command. Whatever the free value of log entry 5 is: the state afterwards is the reset
state, and there is no response or one whose data is a leading part of what the command would have emitted. -/
def Obligations.ResetDuringCommand : Prop :=
  ∀ (s : State) (c : Command) (rest : List HostInput) (full : State),
    s.inputs = .resetDuring c :: rest →
    step { s with inputs := .word c :: rest } = .next full →
    ∃ t, step s = .next t ∧ SameItems (State.resetWith s.cfg) t ∧ t.cfg = s.cfg ∧ t.inputs = rest ∧
      (t.rsp = s.rsp ∨
        ∃ (status : Byte) (data : List Byte) (r : Response),
          t.rsp = s.rsp ++ [⟨status, data⟩] ∧ full.rsp = s.rsp ++ [r] ∧ data <+: r.data)

/-- R200: every command, once taken, completes and delivers its response: no word and no command, in any state, faults the
machine, refuses or hangs. -/
def Obligations.EveryWordCompletes : Prop :=
  (∀ (i : Instr) (s : State), ∃ t, exec i s = .next t) ∧
  (∀ (s : State) (c : Command) (rest : List HostInput), s.inputs = .word c :: rest →
    ∃ (t : State) (r : Response), step s = .next t ∧ t.inputs = rest ∧ t.rsp = s.rsp ++ [r])

/-- R70: exactly one response per word; its data is empty unless its status is OK; it is not OK exactly when the CORE is in
FAULT mode after it; and the length of the data of an OK response is the one R70 lists. -/
def Obligations.OneSoundResponsePerWord : Prop :=
  ∀ (s t : State) (c : Command) (rest : List HostInput),
    s.Inv → s.inputs = .word c :: rest → step s = .next t →
    ∃ r : Response, t.rsp = s.rsp ++ [r] ∧ (r.status ≠ 0x00#8 → r.data = []) ∧ (r.status ≠ 0x00#8 ↔ t.mode = .fault) ∧
      ∀ i, decode c = .ok i → r.status = 0x00#8 → r.data.length = responseLength i s

/-- R21, R35: the response and the new state are a function of the ten items, the command word and the parameters: neither
the responses so far nor what the host does later nor the model's counter is read. -/
def Obligations.WordsReadOnlyItems : Prop :=
  ∀ (c : Command) (s u : State), SameItems s u → u.cfg = s.cfg →
    ∃ (t v : State) (r : Response), executeWord c s = .next t ∧ executeWord c u = .next v ∧
      SameItems t v ∧ t.rsp = s.rsp ++ [r] ∧ v.rsp = u.rsp ++ [r]

/-- R36, R35, R67: no step writes the parameters, the responses so far are never changed, only added to, and a step takes
exactly the first input. The list of inputs, and the step with none that leaves it empty, are the model's choice (log entries
2 and 3); that a reset keeps the responses so far is the model's reading of R35 (log entry 4). -/
def Obligations.StepKeepsConfigAndLog : Prop :=
  ∀ s t : State, step s = .next t → t.cfg = s.cfg ∧ s.rsp <+: t.rsp ∧ t.inputs = s.inputs.tail

/-! ### Faults -/

/-- R167: a word that raises a fault changes nothing but MODE and ERR, and its response is the code with empty data. -/
def Obligations.FaultEntryDiscardsAllWrites : Prop :=
  ∀ (s t : State) (c : Command), s.mode = .run → executeWord c s = .next t → t.mode = .fault →
    ∃ code : Byte, code ≠ 0x00#8 ∧ t = { s with mode := .fault, err := code, rsp := s.rsp ++ [⟨code, []⟩] }

/-- R168: in FAULT mode every word other than a legal SYS.RST is refused: no item changes, the response is ERR with empty
data; so from the first fault to the next reset every response carries the same status (not OK, under the invariants) and
no data, whatever the host sends. -/
def Obligations.FaultModeRefusesEveryWord : Prop :=
  (∀ (s : State) (c : Command) (rest : List HostInput),
    s.mode = .fault → s.inputs = .word c :: rest → decode c ≠ .ok .sysRst →
      step s = .next { s with inputs := rest, rsp := s.rsp ++ [⟨s.err, []⟩] }) ∧
  (∀ (ws : List Command) (rest : List HostInput) (s : State),
    s.mode = .fault → (∀ c ∈ ws, decode c ≠ .ok .sysRst) →
      runSteps ws.length { s with inputs := ws.map HostInput.word ++ rest } =
        .next { s with inputs := rest, rsp := s.rsp ++ List.replicate ws.length ⟨s.err, []⟩ }) ∧
  (∀ s : State, s.Inv → s.mode = .fault → s.err ≠ 0x00#8)

/-- R169: the only ways out of FAULT mode are SYS.RST and the reset input, and both restore the whole reset state. -/
def Obligations.OnlyResetLeavesFaultMode : Prop :=
  ∀ s t : State, s.mode = .fault → step s = .next t → t.mode = .run →
    SameItems (State.resetWith s.cfg) t ∧
    ((∃ c rest, s.inputs = .word c :: rest ∧ decode c = .ok .sysRst) ∨ (∃ rest, s.inputs = .resetInput :: rest) ∨
      (∃ c rest, s.inputs = .resetDuring c :: rest))

/-- R178: which command can raise which fault of its own, both ways: a fault the table marks is raised in some state, and no
other fault is raised in any. -/
def Obligations.FaultsByCommand : Prop :=
  ∀ (i : Instr) (c : FaultCode),
    (∃ s t, s.mode = .run ∧ exec i s = .next t ∧ t.mode = .fault ∧ t.err = faultCode c) ↔ mayRaise i c = true

/-- R164: PROTOCOL is raised exactly when an SLP command arrives in a unit state that does not allow it. -/
def Obligations.ProtocolFaultCases : Prop :=
  ∀ (i : Instr) (s : State), s.mode = .run →
    (exec i s = .next (faulted .protocol s) ↔
      (s.active = true ∧ ((∃ w, i = .slpSetw w) ∨ (∃ h, i = .slpSeth h) ∨ i = .slpBegin)) ∨
      (s.active = false ∧ ((∃ r g b, i = .slpPix r g b) ∨ i = .slpEor ∨ i = .slpPack)))

/-- R162, with the order of checks of R166: MALFORMED_INPUT is raised in exactly the cases listed, once PROTOCOL does not
apply, and nothing is emitted with it. -/
def Obligations.MalformedInputFaultCases : Prop :=
  ∀ (i : Instr) (s : State), s.mode = .run →
    (exec i s = .next (faulted .malformedInput s) ↔
      (s.active = false ∧ i = .slpBegin ∧ (s.width = 0#32 ∨ s.height = 0#32)) ∨
      (s.active = true ∧
        (((∃ r g b, i = .slpPix r g b) ∧ (s.row = s.height ∨ s.col = s.width)) ∨
          (i = .slpEor ∧ (s.row = s.height ∨ s.col ≠ s.width)) ∨
          (i = .slpPack ∧ (s.row ≠ s.height ∨ s.col ≠ 0#32)))))

/-- R165, with the order of checks of R166: CAPACITY is raised exactly when a buffer is too small, compared as naturals
without wrap-around. -/
def Obligations.CapacityFaultCases : Prop :=
  ∀ (i : Instr) (s : State), s.mode = .run →
    (exec i s = .next (faulted .capacity s) ↔
      (i = .slpBegin ∧ s.active = false ∧ s.width ≠ 0#32 ∧ s.height ≠ 0#32 ∧
        s.height.toNat * (3 * s.width.toNat + 1) > s.cfg.slbCap) ∨
      ((∃ b, i = .chbPushb b) ∧ s.pb.length + 1 > s.cfg.pbCap) ∨
      ((∃ w, i = .chbPushw w) ∧ s.pb.length + 4 > s.cfg.pbCap))

/-! ### Invariants -/

/-- R34 (the values), R33, R160: the reset state of a CORE of any legal capacities, and `State.reset` (whose 65536 bytes are
the model's choice, log entry 1), meet the invariants. -/
def Obligations.ResetMeetsInvariants : Prop :=
  (∀ cfg : Config, cfg.legal = true →
    (State.resetWith cfg).Inv ∧ (State.resetWith cfg).codesSound = true ∧ (State.resetWith cfg).GridInv) ∧
  State.reset = State.resetWith { pbCap := 65536, slbCap := 65536 } ∧ State.reset.Inv

/-- R34: every item at its reset value. -/
def Obligations.ResetValues : Prop :=
  ∀ cfg : Config,
    (State.resetWith cfg).acc = 0xFFFFFFFF#32 ∧ (State.resetWith cfg).width = 0#32 ∧ (State.resetWith cfg).height = 0#32 ∧
    (State.resetWith cfg).row = 0#32 ∧ (State.resetWith cfg).col = 0#32 ∧ (State.resetWith cfg).active = false ∧
    (State.resetWith cfg).slb = [] ∧ (State.resetWith cfg).pb = [] ∧ (State.resetWith cfg).mode = .run ∧
    (State.resetWith cfg).err = 0x00#8

/-- R33: every step keeps the invariants, from every state that meets them. -/
def Obligations.StepKeepsInv : Prop := ∀ s t : State, s.Inv → step s = .next t → t.Inv

/-- R33 items 1 to 6: they hold in every state reachable from reset, for every legal capacity and every input of the host. -/
def Obligations.ReachableStatesMeetInv : Prop :=
  ∀ (cfg : Config) (xs : List HostInput) (k : Nat) (t : State), cfg.legal = true →
    runSteps k { State.resetWith cfg with inputs := xs } = .next t →
    t.Inv ∧ t.slb.length ≤ t.cfg.slbCap

/-- R160, R163, R70: ERR and every status byte ever delivered is one of the five codes the CORE produces (never 0x03), and no
faulted response carries data; every step keeps this. The responses of log entry 5 (a reset during a command) are free, so
that input is excluded. -/
def Obligations.StepKeepsCodesSound : Prop :=
  ∀ s t : State, s.codesSound = true → (∀ c rest, s.inputs ≠ .resetDuring c :: rest) → step s = .next t →
    t.codesSound = true

/-- R100, R105 to R107: while a grid is being packed, SLB holds the packed form of its rows so far; every step keeps this. -/
def Obligations.StepKeepsGridInv : Prop := ∀ s t : State, s.GridInv → step s = .next t → t.GridInv

/-- R33 (no counter wraps), R181: under the invariant the 32-bit increments of ROW and COL are natural-number increments. -/
def Obligations.CountersNeverWrap : Prop :=
  ∀ s t : State, s.Inv → s.mode = .run → t.mode = .run →
    (∀ r g b, exec (.slpPix r g b) s = .next t → t.col.toNat = s.col.toNat + 1) ∧
    (exec .slpEor s = .next t → t.row.toNat = s.row.toNat + 1)

/-! ### The commands, one by one -/

/-- R80, R81: BEW.ENC answers the four bytes of `w`, most significant first, and changes nothing. -/
def Obligations.BewEncEmitsBigEndian : Prop :=
  ∀ (w : Word) (s : State), decode (commandWord 0x01#8 w) = .ok (.bewEnc w) ∧
    bew w = [w.extractLsb' 24 8, w.extractLsb' 16 8, w.extractLsb' 8 8, w.extractLsb' 0 8] ∧
    (s.mode = .run → exec (.bewEnc w) s = .next (answered (bew w) s))

/-- R82: BEW is injective, with inverse `b0 * 2^24 + b1 * 2^16 + b2 * 2^8 + b3`. -/
def Obligations.BewIsInjective : Prop :=
  (∀ v w : Word, bew v = bew w → v = w) ∧
  (∀ (w : Word) (b0 b1 b2 b3 : Byte), bew w = [b0, b1, b2, b3] →
    w.toNat = b0.toNat * 2 ^ 24 + b1.toNat * 2 ^ 16 + b2.toNat * 2 ^ 8 + b3.toNat)

/-- R95, R96, R97: CRC.INIT sets ACC to 0xFFFFFFFF; CRC.UPD steps ACC with its byte; CRC.FIN answers
`BEW(ACC XOR 0xFFFFFFFF)` and keeps ACC; none changes anything else or faults; each has the words its rule gives. -/
def Obligations.CrcCommandsAnswer : Prop :=
  (∀ c : Command, decode c = .ok .crcInit ↔ c = 0x1000000000#40) ∧
  (∀ (b : Byte) (c : Command), decode c = .ok (.crcUpd b) ↔ c = commandWord 0x11#8 (b.setWidth 32)) ∧
  (∀ c : Command, decode c = .ok .crcFin ↔ c = 0x1200000000#40) ∧
  (∀ (b : Byte) (s : State), s.mode = .run →
    exec .crcInit s = .next (answered [] { s with acc := 0xFFFFFFFF#32 }) ∧
    exec (.crcUpd b) s = .next (answered [] { s with acc := crcStep s.acc b }) ∧
    exec .crcFin s = .next (answered (bew (s.acc ^^^ 0xFFFFFFFF#32)) s))

/-- R102, R103: SLP.SETW and SLP.SETH write their register and nothing else, for every 32-bit value, while no grid is
active; otherwise PROTOCOL. -/
def Obligations.SetDimensions : Prop :=
  ∀ (v : Word) (s : State),
    decode (commandWord 0x20#8 v) = .ok (.slpSetw v) ∧ decode (commandWord 0x21#8 v) = .ok (.slpSeth v) ∧
    (s.mode = .run → s.active = false →
      exec (.slpSetw v) s = .next (answered [] { s with width := v }) ∧
      exec (.slpSeth v) s = .next (answered [] { s with height := v })) ∧
    (s.mode = .run → s.active = true →
      exec (.slpSetw v) s = .next (faulted .protocol s) ∧ exec (.slpSeth v) s = .next (faulted .protocol s))

/-- R104: SLP.BEGIN, with its checks in order. -/
def Obligations.BeginStartsGrid : Prop :=
  (∀ c : Command, decode c = .ok .slpBegin ↔ c = 0x2200000000#40) ∧
  (∀ s : State, s.mode = .run →
    exec .slpBegin s = .next (
      if s.active = true then faulted .protocol s
      else if s.width = 0#32 ∨ s.height = 0#32 then faulted .malformedInput s
      else if s.height.toNat * (3 * s.width.toNat + 1) > s.cfg.slbCap then faulted .capacity s
      else answered [] { s with slb := [], row := 0#32, col := 0#32, active := true }))

/-- R105: SLP.PIX appends its three bytes, after the filter-type byte if it opens a row, and counts the pixel. -/
def Obligations.PixelIsAppended : Prop :=
  ∀ (r g b : Byte) (s : State), decode (commandWord 0x23#8 (pixelOperand r g b)) = .ok (.slpPix r g b) ∧
    (s.mode = .run →
      exec (.slpPix r g b) s = .next (
        if s.active = false then faulted .protocol s
        else if s.row = s.height then faulted .malformedInput s
        else if s.col = s.width then faulted .malformedInput s
        else answered [] { s with
          slb := s.slb ++ (if s.col = 0#32 then [0x00#8] else []) ++ [r, g, b]
          col := s.col + 1#32 }))

/-- R106: SLP.EOR counts a full row, appends nothing, and refuses a short, an empty or a further row. -/
def Obligations.EndOfRowCounts : Prop :=
  (∀ c : Command, decode c = .ok .slpEor ↔ c = 0x2400000000#40) ∧
  (∀ s : State, s.mode = .run →
    exec .slpEor s = .next (
      if s.active = false then faulted .protocol s
      else if s.row = s.height then faulted .malformedInput s
      else if s.col ≠ s.width then faulted .malformedInput s
      else answered [] { s with row := s.row + 1#32, col := 0#32 }))

/-- R107: SLP.PACK answers the whole of SLB, which under the invariants is `HEIGHT * (3 * WIDTH + 1)` bytes, empties it and
ends the grid; WIDTH and HEIGHT keep their values. -/
def Obligations.PackEmitsBuffer : Prop :=
  (∀ c : Command, decode c = .ok .slpPack ↔ c = 0x2500000000#40) ∧
  (∀ s : State, s.mode = .run →
    exec .slpPack s = .next (
      if s.active = false then faulted .protocol s
      else if s.row ≠ s.height then faulted .malformedInput s
      else if s.col ≠ 0#32 then faulted .malformedInput s
      else answered s.slb { s with slb := [], row := 0#32, col := 0#32, active := false })) ∧
  (∀ s : State, s.Inv → s.active = true → s.row = s.height → s.col = 0#32 →
    s.slb.length = s.height.toNat * (3 * s.width.toNat + 1))

/-- R121, R122: a push appends its 1 or 4 bytes when they fit and nothing when they do not; ACC is not touched. -/
def Obligations.PushesAppend : Prop :=
  ∀ (b : Byte) (w : Word) (s : State),
    decode (commandWord 0x30#8 (byteOperand b)) = .ok (.chbPushb b) ∧ decode (commandWord 0x31#8 w) = .ok (.chbPushw w) ∧
    (s.mode = .run →
      exec (.chbPushb b) s = .next (
        if s.pb.length + 1 > s.cfg.pbCap then faulted .capacity s else answered [] { s with pb := s.pb ++ [b] }) ∧
      exec (.chbPushw w) s = .next (
        if s.pb.length + 4 > s.cfg.pbCap then faulted .capacity s else answered [] { s with pb := s.pb ++ bew w }))

/-- R123, R126: CHB.BUILD frames whatever PB holds under any tag, empties PB and leaves ACC at the accumulator before the
final inversion; it never faults. -/
def Obligations.BuildEmitsChunk : Prop :=
  ∀ (t : Word) (s : State), decode (commandWord 0x32#8 t) = .ok (.chbBuild t) ∧
    (s.mode = .run →
      exec (.chbBuild t) s =
        .next (answered (chunk t s.pb) { s with acc := crcRun 0xFFFFFFFF#32 (bew t ++ s.pb), pb := [] }))

/-- R130: SYS.RST puts the ten items in the reset state of R34 and answers OK, in RUN and in FAULT mode; its only word is
F000000000. -/
def Obligations.SysRstResets : Prop :=
  (∀ c : Command, decode c = .ok .sysRst ↔ c = 0xF000000000#40) ∧
  (∀ s : State,
    exec .sysRst s = .next { State.resetWith s.cfg with
      rsp := s.rsp ++ [⟨0x00#8, []⟩]
      inputs := s.inputs
      freeUses := s.freeUses })

/-- R131: after SYS.RST the CORE cannot be told from a CORE after the reset input: whatever the host does next, the ten items
and the responses are the same. Where the host next resets the CORE during a command, that the responses are the same rests
on the model's choice of log entry 5 (both runs draw the free response with the same counter; U3 allows any); where it
breaks the port's protocol, the run stops (log entry 6). That a reset keeps the responses so far is log entry 4. -/
def Obligations.ResetsAreIndistinguishable : Prop :=
  ∀ (s t u : State) (xs : List HostInput),
    step { s with inputs := .word 0xF000000000#40 :: xs } = .next t →
    step { s with inputs := .resetInput :: xs } = .next u →
    SameItems t u ∧
    ∀ (k : Nat) (t' : State), runSteps k t = .next t' →
      ∃ (u' : State) (d : List Response), runSteps k u = .next u' ∧ SameItems t' u' ∧
        t'.rsp = t.rsp ++ d ∧ u'.rsp = u.rsp ++ d

/-! ### The checksum -/

/-- R94: the table form and the bit-loop form equal `crc_step` for every accumulator and byte, and the table has the entries
that the rule prints. -/
def Obligations.CrcFormsAgree : Prop :=
  (∀ (a : Word) (b : Byte),
    crcStep a b = crcTable (byte0 (a ^^^ b.setWidth 32)) ^^^ (a >>> 8) ∧ crcStep a b = crcStepBitLoop a b) ∧
  crcTable 0x00#8 = 0x00000000#32 ∧ crcTable 0x01#8 = 0x77073096#32 ∧ crcTable 0x02#8 = 0xEE0E612C#32 ∧
  crcTable 0x03#8 = 0x990951BA#32 ∧ crcTable 0x04#8 = 0x076DC419#32 ∧ crcTable 0x08#8 = 0x0EDB8832#32 ∧
  crcTable 0x10#8 = 0x1DB71064#32 ∧ crcTable 0x20#8 = 0x3B6E20C8#32 ∧ crcTable 0x40#8 = 0x76DC4190#32 ∧
  crcTable 0x80#8 = 0xEDB88320#32 ∧ crcTable 0x49#8 = 0x0F00F934#32 ∧ crcTable 0xB6#8 = 0x220216B9#32 ∧
  crcTable 0xFF#8 = 0x2D02EF8D#32

/-- R98: with no command between them that writes ACC other than CRC.UPD, and no fault, the accumulator ends at `crc_run` of
the bytes taken, whatever other commands are interleaved; and CRC.INIT, one CRC.UPD per byte, CRC.FIN answer exactly
`BEW(CRC32(s))` (R90), for every byte sequence, the empty one included. -/
def Obligations.CrcStreamIsChecksum : Prop :=
  (∀ (cs : List Instr) (s t : State), s.mode = .run → execAll cs s = .next t → t.mode = .run →
    (∀ i ∈ cs, i ≠ .crcInit ∧ i ≠ .sysRst ∧ ∀ tag, i ≠ .chbBuild tag) →
    t.acc = crcRun s.acc (cs.filterMap fun i => match i with | .crcUpd b => some b | _ => none)) ∧
  (∀ (bs : List Byte) (s : State), s.mode = .run →
    execAll (expand (.crcOf bs)) s = .next { s with
      acc := crcAcc bs
      rsp := s.rsp ++ List.replicate (bs.length + 1) ⟨0x00#8, []⟩ ++ [⟨0x00#8, bew (crc32 bs)⟩] })

/-- R194: CHB.BUILD does not read ACC, and a checksum streamed across it is that of tag, payload and the later bytes. -/
def Obligations.BuildOverwritesStream : Prop :=
  ∀ (tag v : Word) (bs : List Byte) (s t : State), s.mode = .run →
    exec (.chbBuild tag) { s with acc := v } = exec (.chbBuild tag) s ∧
    (execAll ([.chbBuild tag] ++ bs.map .crcUpd ++ [.crcFin]) s = .next t →
      lastResponse t = ⟨0x00#8, bew (crc32 (bew tag ++ s.pb ++ bs))⟩)

/-! ### The Scanline Packer -/

/-- R100, R101: `PACK(g)` has `h * (w * 3 + 1)` bytes, and byte `y * (3w + 1) + k` of it is the filter-type byte for `k = 0`, else
component `(k - 1) mod 3` of the pixel in row `y` and column `(k - 1) div 3`. -/
def Obligations.PackLayout : Prop :=
  ∀ g : PixelGrid, gridWellFormed g = true →
    (pack g).length = g.length * (gridWidth g * 3 + 1) ∧
    ∀ (y k : Nat) (row : List Pixel), g[y]? = some row → k < 3 * gridWidth g + 1 →
      (pack g)[y * (3 * gridWidth g + 1) + k]? =
        if k = 0 then some 0x00#8
        else (row[(k - 1) / 3]?).bind fun p => [p.red, p.green, p.blue][(k - 1) % 3]?

/-- R108: the canonical sequence of a well-formed grid that fits raises no fault, answers no data before SLP.PACK, and
SLP.PACK answers exactly `PACK(g)`. -/
def Obligations.CanonicalGridPacks : Prop :=
  ∀ (g : PixelGrid) (s : State), gridWellFormed g = true → packedSize (widthWord g) (heightWord g) ≤ s.cfg.slbCap →
    s.mode = .run → s.active = false →
    execAll (packCommands g) s = .next { s with
      width := widthWord g
      height := heightWord g
      row := 0#32
      col := 0#32
      slb := []
      active := false
      rsp := s.rsp ++ List.replicate ((packCommands g).length - 1) ⟨0x00#8, []⟩ ++ [⟨0x00#8, pack g⟩] }

/-- R108, last sentence: commands of units BEW, CRC and CHB interleaved anywhere (none of them faulting) change nothing of
it. -/
def Obligations.GridPacksUnderInterleaving : Prop :=
  ∀ (g : PixelGrid) (cs : List Instr) (s t : State), gridWellFormed g = true →
    packedSize (widthWord g) (heightWord g) ≤ s.cfg.slbCap → s.mode = .run → s.active = false →
    cs.filter (fun i => i.unit == .slp) = packCommands g → (∀ i ∈ cs, i.unit ≠ .sys) →
    execAll cs s = .next t → t.mode = .run →
    ∃ (before later : List Instr) (u v : State), cs = before ++ .slpPack :: later ∧
      execAll before s = .next u ∧ exec .slpPack u = .next v ∧ v.rsp = u.rsp ++ [⟨0x00#8, pack g⟩]

/-- R109, R108: whatever commands led there, what SLP.PACK answers is the packed form of a non-empty rectangular grid of
the set dimensions; nothing else is ever emitted by the Scanline Packer. -/
def Obligations.PackEmitsOnlyGrids : Prop :=
  (∀ s t : State, s.Inv → s.GridInv → s.mode = .run → exec .slpPack s = .next t → t.mode = .run →
    ∃ g : PixelGrid, gridWellFormed g = true ∧ gridWidth g = s.width.toNat ∧ g.length = s.height.toNat ∧
      t.rsp = s.rsp ++ [⟨0x00#8, pack g⟩]) ∧
  (∀ (i : Instr) (s t : State), i.unit = .slp → i ≠ .slpPack → exec i s = .next t → (lastResponse t).data = [])

/-! ### The Chunk Builder -/

/-- R120: the layout of a chunk. -/
def Obligations.ChunkLayout : Prop :=
  ∀ (t : Word) (p : List Byte), p.length ≤ 2 ^ 32 - 1 →
    (chunk t p).length = 12 + p.length ∧
    (unbew ((chunk t p).take 4)).map BitVec.toNat = some p.length ∧
    ((chunk t p).drop 4).take 4 = bew t ∧
    ((chunk t p).drop 8).take p.length = p ∧
    (chunk t p).drop (8 + p.length) = bew (crc32 (bew t ++ p))

/-- R125, R99: in every chunk the CORE emits, the length field is the byte count of the payload that follows it, and the
trailing 4 bytes are the checksum recomputed over type tag and payload. -/
def Obligations.EveryBuiltChunkIsSound : Prop :=
  ∀ (t : Word) (s u : State), s.Inv → s.mode = .run → exec (.chbBuild t) s = .next u →
    ∃ d : List Byte, u.rsp = s.rsp ++ [⟨0x00#8, d⟩] ∧ 12 ≤ d.length ∧
      (unbew (d.take 4)).map BitVec.toNat = some (d.length - 12) ∧
      d.drop (d.length - 4) = bew (crc32 ((d.drop 4).take (d.length - 8)))

/-- R45, R122: with 4 bytes free CHB.PUSHW leaves the state that CHB.PUSHB of its four bytes leaves, the number of
responses apart. -/
def Obligations.WordPushIsFourBytePushes : Prop :=
  ∀ (w : Word) (s : State), s.mode = .run → s.pb.length + 4 ≤ s.cfg.pbCap →
    ∃ t u : State, exec (.chbPushw w) s = .next t ∧ execAll ((bew w).map .chbPushb) s = .next u ∧
      SameItems t u ∧ t.pb = s.pb ++ [w.extractLsb' 24 8, w.extractLsb' 16 8, w.extractLsb' 8 8, w.extractLsb' 0 8]

/-- R124, R195: pushing a payload that fits and building answers the chunk of all of PB, old bytes first; with PB empty before,
exactly `CHUNK(t, p)`. -/
def Obligations.CanonicalPayloadBuilds : Prop :=
  ∀ (t : Word) (p : List Byte) (s : State), s.mode = .run → s.pb.length + p.length ≤ s.cfg.pbCap →
    execAll (chunkCommands t p) s = .next { s with
      acc := crcAcc (bew t ++ (s.pb ++ p))
      pb := []
      rsp := s.rsp ++ List.replicate p.length ⟨0x00#8, []⟩ ++ [⟨0x00#8, chunk t (s.pb ++ p)⟩] }

/-! ### The whole machine -/

/-- R22, the W entries of its table: no command writes an item the table does not mark, in any state; MODE and ERR change
only by a fault or by SYS.RST. -/
def Obligations.OnlyListedCommandsWrite : Prop :=
  ∀ (i : Instr) (s t : State), exec i s = .next t →
    (∀ x : Item, writesItem i x = false → sameItem x s t) ∧ SameEnvironment s t ∧
    (i = .sysRst ∨ t.mode = .fault ∨ (t.mode = s.mode ∧ t.err = s.err))

/-- R22, the R entries of its table: an item the table does not mark as read has no effect on the response or on any other
item. -/
def Obligations.OnlyListedCommandsRead : Prop :=
  ∀ (i : Instr) (x : Item) (s u t t' : State), readsItem i x = false →
    exec i s = .next t → exec i (withItemOf x s u) = .next t' → t' = withItemOf x t t'

/-- R37, R33: in an idle CORE the only items that depend on the past are ACC, WIDTH and HEIGHT. -/
def Obligations.IdleForgetsThePast : Prop :=
  ∀ s : State, s.Inv → idle s = true →
    SameItems { State.resetWith s.cfg with acc := s.acc, width := s.width, height := s.height } s

/-- R177: several COREs share nothing. A step of one makes it what `step` gives, a fault of its port included (U4), and leaves
every other as it was; steps of two of them commute; and after steps in any order each CORE is where as many steps of its own,
taken alone, bring it, whatever the others did and even if one of them is stuck. The list of COREs and the mover as an
argument, with no move for a number beyond the list, are the model's choice (log entry 14). -/
def Obligations.CoresShareNothing : Prop :=
  (∀ (cores : List Result) (j : Nat) (s : State), cores[j]? = some (.next s) →
    (stepNth j cores)[j]? = some (step s) ∧ (stepNth j cores).length = cores.length) ∧
  (∀ (cores : List Result) (j k : Nat), j ≠ k → (stepNth j cores)[k]? = cores[k]?) ∧
  (∀ (cores : List Result) (j k : Nat), j ≠ k → stepBoth j k cores = stepBoth k j cores) ∧
  (∀ (cores : List Result) (order : List Nat) (k : Nat) (s : State), cores[k]? = some (.next s) →
    (stepMany order cores)[k]? = some (runSteps (order.count k) s))

/-- R21, R66, R67: presenting the words of a list of commands and stepping once per word is executing the commands in
order. -/
def Obligations.WordStreamRunsCommands : Prop :=
  ∀ (cs : List Instr) (rest : List HostInput) (s : State),
    runSteps cs.length { s with inputs := cs.map (fun i => HostInput.word (encode i)) ++ rest } =
      execAll cs { s with inputs := rest }

/-! ### The host's sequence -/

/-- R148, R153: the layout of an EncodedImage: every row of the table of R148, and the header fields decode to the
dimensions. The tag bytes of IHDR and IDAT are PRESUMED (log entry 10: G1, G2), here and in the checksums over them. -/
def Obligations.ImageLayout : Prop :=
  ∀ (w h : Word) (z : List Byte), z.length ≤ 2 ^ 32 - 1 →
    let img := encodedImage w h z
    let n := z.length
    img.length = 57 + n ∧
    img.take 8 = [0x89#8, 0x50#8, 0x4E#8, 0x47#8, 0x0D#8, 0x0A#8, 0x1A#8, 0x0A#8] ∧
    (img.drop 8).take 4 = [0x00#8, 0x00#8, 0x00#8, 0x0D#8] ∧
    (img.drop 12).take 4 = [0x49#8, 0x48#8, 0x44#8, 0x52#8] ∧
    unbew ((img.drop 16).take 4) = some w ∧
    unbew ((img.drop 20).take 4) = some h ∧
    (img.drop 24).take 5 = [0x08#8, 0x02#8, 0x00#8, 0x00#8, 0x00#8] ∧
    (img.drop 29).take 4 = bew (crc32 ((img.drop 12).take 17)) ∧
    (unbew ((img.drop 33).take 4)).map BitVec.toNat = some n ∧
    (img.drop 37).take 4 = [0x49#8, 0x44#8, 0x41#8, 0x54#8] ∧
    (img.drop 41).take n = z ∧
    (img.drop (41 + n)).take 4 = bew (crc32 ((img.drop 37).take (4 + n))) ∧
    img.drop (45 + n) =
      [0x00#8, 0x00#8, 0x00#8, 0x00#8, 0x49#8, 0x45#8, 0x4E#8, 0x44#8, 0xAE#8, 0x42#8, 0x60#8, 0x82#8]

/-- R148, R149: for every well-formed grid that fits, every compressor whose output fits PB, from any state, the canonical host
sequence makes the EncodedImage and leaves the CORE idle with the end chunk's accumulator and the grid's dimensions. That it
holds from any state rests on SYS.RST being issued first, the model's choice (log entry 13); the tag bytes of IHDR and IDAT
are PRESUMED (log entry 10). -/
def Obligations.CanonicalSequenceMakesImage : Prop :=
  ∀ (compress : List Byte → Option (List Byte)) (g : PixelGrid) (s : State) (z : List Byte),
    s.cfg.legal = true → gridWellFormed g = true → packedSize (widthWord g) (heightWord g) ≤ s.cfg.slbCap →
    compress (pack g) = some z → z.length ≤ s.cfg.pbCap →
    ∃ t : State, encodeImage compress g s = (.ok (encodedImage (widthWord g) (heightWord g) z), t) ∧ idle t = true ∧
      t.acc = 0x51BD9F7D#32 ∧ t.width = widthWord g ∧ t.height = heightWord g

/-- R109, R150, R151: a grid with no row, with a zero-width first row (however many rows) or with rows of differing lengths
gives MalformedInput and no byte, whatever the compressor, and leaves the CORE in the reset state. That the declared width is
that of the first row, that SYS.RST is issued first and that the host compares no size beforehand are the model's choices
(log entry 13). -/
def Obligations.MalformedGridGivesNoImage : Prop :=
  ∀ (compress : List Byte → Option (List Byte)) (g : PixelGrid) (s : State),
    gridWellFormed g = false → g.length < 2 ^ 32 → gridWidth g < 2 ^ 32 →
    (gridWidth g = 0 ∨ packedSize (widthWord g) (heightWord g) ≤ s.cfg.slbCap) →
    ∃ t : State, encodeImage compress g s = (.error .malformedInput, t) ∧ SameItems (State.resetWith s.cfg) t

/-- R151, R163 (ColorComponentOutOfRange): a host that holds components in integers (the model's choice of the wider type, log
entry 13) reports exactly the row and column of the first component outside 0 to 255 (rows first: the model's choice, log
entry 13), and otherwise forms the grid of the same components. -/
def Obligations.WideComponentsAreReported : Prop :=
  ∀ g : List (List WideColor),
    (∀ r c : Nat, narrowGrid g = .error (.colorComponentOutOfRange r c) ↔
      ∃ (row : List WideColor) (x : WideColor), g[r]? = some row ∧ row[c]? = some x ∧
        (x.red < 0 ∨ x.red > 255 ∨ x.green < 0 ∨ x.green > 255 ∨ x.blue < 0 ∨ x.blue > 255) ∧
        (∀ y ∈ row.take c, y.inRange = true) ∧ ∀ q ∈ g.take r, ∀ y ∈ q, y.inRange = true) ∧
    ((∀ row ∈ g, ∀ x ∈ row, x.inRange = true) →
      ∃ p : PixelGrid, narrowGrid g = .ok p ∧
        p.map (fun row => row.map fun x => ((x.red.toNat : Int), (x.green.toNat : Int), (x.blue.toNat : Int))) =
          g.map (fun row => row.map fun x => (x.red, x.green, x.blue)))
end

