-- ==== Sys2Proof/Laws/Assembler.lean ====
section
/-! SUPPORT. The tokens of the lines that disassembly prints (spec/30_encoding.md R68, R71): runs of plain characters,
hexadecimal numbers, decimal bytes. -/

namespace Sys2Proof.Machine

/-- A character that joins the run. -/
def plainChar (c : Char) : Bool := c != '\'' && c != ';' && c != ' ' && c != '\t' && c != '\r' && c != ',' && c != '(' && c != ')'

/-- A plain character joins the run. -/
theorem lex_plain {c : Char} (h : plainChar c = true) (run rest : List Char) :
    lex run (c :: rest) = lex (c :: run) rest := by
  simp [plainChar] at h
  rw [lex]
  · simp [h]
  · intro a b c d r h1; simp_all

/-- So do plain characters. -/
theorem lex_run (cs : List Char) (h : cs.all plainChar = true) (run rest : List Char) :
    lex run (cs ++ rest) = lex (cs.reverse ++ run) rest := by
  induction cs generalizing run with
  | nil => rfl
  | cons c cs ih =>
    simp only [List.all_cons, Bool.and_eq_true] at h
    rw [List.cons_append, lex_plain h.1, ih h.2]; simp

/-- A space ends the run. -/
theorem lex_space (run rest : List Char) : lex run (' ' :: rest) = endRun run (lex [] rest) := by
  rw [lex] <;> simp

/-- A comma ends the run and is a token. -/
theorem lex_comma (run rest : List Char) : lex run (',' :: rest) = endRun run (consToken (some .comma) (lex [] rest)) := by
  rw [lex] <;> simp

/-- A run ends in the token it stands for. -/
theorem endRun_rev (cs : List Char) (h : cs ≠ []) (ts : Option (List Token)) :
    endRun cs.reverse ts = consToken (classify cs) ts := by
  cases hc : cs.reverse with
  | nil => simp at hc; exact absurd hc h
  | cons c r =>
    have : cs = (c :: r).reverse := by rw [← hc]; simp
    subst this
    cases ts <;> simp [endRun, consToken]
    cases h : classify (r.reverse ++ [c]) <;> simp

/-- The sixteen digits read back. -/
theorem digit_ok : ∀ d < 16, plainChar (digitChar d) = true ∧ digitValue (digitChar d) = some d := by decide

/-- Hexadecimal digits are plain. -/
theorem hex_plain (k n : Nat) : (hexChars k n).all plainChar = true := by
  induction k generalizing n with
  | zero => rfl
  | succ k ih => simp [hexChars, ih, (digit_ok (n % 16) (Nat.mod_lt _ (by decide))).1]

/-- Digits are read one run after the other. -/
theorem readDigits_append (b : Nat) (cs ds : List Char) (acc v : Nat) (h : readDigits b cs acc = some v) :
    readDigits b (cs ++ ds) acc = readDigits b ds v := by
  induction cs generalizing acc with
  | nil => cases h; rfl
  | cons c cs ih =>
    rw [readDigits] at h
    rw [List.cons_append, readDigits]
    split at h
    · split at h
      · rw [if_pos ‹_›]; exact ih _ h
      · cases h
    · cases h

/-- Hexadecimal digits read back as the number. -/
theorem readDigits_hex (k n acc : Nat) (h : n < 16 ^ k) :
    readDigits 16 (hexChars k n) acc = some (acc * 16 ^ k + n) := by
  induction k generalizing n with
  | zero => simp at h; simp [hexChars, readDigits, h]
  | succ k ih =>
    rw [hexChars, readDigits_append _ _ _ _ _ (ih (n / 16) (by
      rw [Nat.div_lt_iff_lt_mul (by decide), ← pow_succ]; exact h))]
    have hd := (digit_ok (n % 16) (Nat.mod_lt _ (by decide))).2
    have hm := Nat.mod_lt n (show 16 > 0 by decide)
    simp only [readDigits, hd, hm, if_true]
    congr 1
    have := Nat.div_add_mod n 16
    rw [pow_succ]
    have e : acc * (16 ^ k * 16) = (acc * 16 ^ k) * 16 := by ring
    omega

/-- A hexadecimal number is one token. -/
theorem classify_hex (k n : Nat) (hk : 0 < k) (h : n < 16 ^ k) :
    classify ('0' :: 'x' :: hexChars k n) = some (.num n) := by
  have hr := readDigits_hex k n 0 h
  cases hc : hexChars k n with
  | nil =>
    cases k with
    | zero => omega
    | succ k => simp [hexChars] at hc
  | cons d ds => rw [hc] at hr; simp [classify, hr]

/-- The tokens of a line that is a name and a hexadecimal operand. -/
theorem lex_hexOperand (m : List Char) (hm : m ≠ []) (hp : m.all plainChar = true) (k n : Nat) (hk : 0 < k)
    (h : n < 16 ^ k) :
    lex [] (m ++ hexOperand k n) = consToken (classify m) (some [.num n]) := by
  rw [lex_run m hp, List.append_nil, hexOperand, lex_space, endRun_rev m hm]
  congr 1
  have := lex_run ('0' :: 'x' :: hexChars k n) (by simp only [List.all_cons, hex_plain]; decide) [] []
  rw [List.append_nil, List.append_nil] at this
  rw [this, lex, endRun_rev _ (by simp), classify_hex k n hk h]; rfl

/-- The decimal digits of a byte read back. -/
theorem decimal_ok (b : Byte) :
    (decimalChars b).all plainChar = true ∧ classify (decimalChars b) = some (.num b.toNat) ∧ decimalChars b ≠ [] := by
  revert b
  decide +kernel

/-- The tokens of a line that is a name and a pixel. -/
theorem lex_pixel (m : List Char) (hm : m ≠ []) (hp : m.all plainChar = true) (r g b : Byte) :
    lex [] (m ++ operandChars (.slpPix r g b)) =
      consToken (classify m) (some [.num r.toNat, .comma, .num g.toNat, .comma, .num b.toNat]) := by
  have hb := lex_run _ (decimal_ok b).1 [] []
  rw [List.append_nil, List.append_nil] at hb
  simp only [operandChars, List.append_assoc, List.cons_append, List.nil_append]
  rw [lex_run m hp, List.append_nil, lex_space, endRun_rev m hm, lex_run _ (decimal_ok r).1, List.append_nil, lex_comma,
    endRun_rev _ (decimal_ok r).2.2, lex_space, lex_run _ (decimal_ok g).1, List.append_nil, lex_comma,
    endRun_rev _ (decimal_ok g).2.2, lex_space, hb, lex, endRun_rev _ (decimal_ok b).2.2, (decimal_ok r).2.1,
    (decimal_ok g).2.1, (decimal_ok b).2.1]
  rfl

end Sys2Proof.Machine
end

