-- ==== Sys2Proof/Laws/Cores.lean ====
section
/-! SUPPORT. What a step of one of several COREs does to each of them, once. -/

namespace Sys2Proof.Machine

@[simp] theorem advance_next (s : State) : advance (.next s) = step s := rfl

@[simp] theorem advance_fault (f : Fault) : advance (.fault f) = .fault f := rfl

/-- A run is one step and then the rest, stuck or not. -/
theorem advance_runSteps (k : Nat) (s : State) : advance (runSteps k s) = runSteps (k + 1) s := by
  induction k generalizing s with
  | zero => simp only [runSteps, advance_next]; cases step s <;> rfl
  | succ k ih =>
    rw [runSteps, runSteps]
    cases step s with
    | next t => exact ih t
    | fault f => rfl
    | refused r => rfl

@[simp] theorem length_stepNth (k : Nat) (cores : List Result) : (stepNth k cores).length = cores.length := by
  simp [stepNth]

/-- All that a step of the `k`-th CORE does, CORE by CORE. -/
theorem stepNth_get (j k : Nat) (cores : List Result) :
    (stepNth k cores)[j]? = if k = j then cores[j]?.map advance else cores[j]? := by
  simp only [stepNth, List.getElem?_modify]
  split <;> simp

@[simp] theorem stepMany_nil (cores : List Result) : stepMany [] cores = cores := rfl

@[simp] theorem stepMany_cons (k : Nat) (order : List Nat) (cores : List Result) :
    stepMany (k :: order) cores = stepMany order (stepNth k cores) := rfl

end Sys2Proof.Machine
end

