-- ==== Sys2Proof/Laws/Decode.lean ====
section
/-! SUPPORT. The fields of a command word and the bytes of a word: taking apart what was put together, and the reverse, and
masking field by field. Proofs about encodings cite these and look at no bit. -/

namespace Sys2Proof.Machine

/-! ### Bit by bit -/

theorem commandWord_bit (o : Byte) (x : Word) (k : Nat) :
    (commandWord o x).getLsbD k = if k < 32 then x.getLsbD k else o.getLsbD (k - 32) :=
  (BitVec.getLsbD_append (x := o) (y := x)).trans (by split <;> simp_all)

theorem wordOfBytes_bit (a b c d : Byte) (k : Nat) :
    (wordOfBytes a b c d).getLsbD k =
      if k < 8 then d.getLsbD k else if k < 16 then c.getLsbD (k - 8)
      else if k < 24 then b.getLsbD (k - 16) else a.getLsbD (k - 24) := by
  have h : (wordOfBytes a b c d).getLsbD k = if k < 16 then (c ++ d).getLsbD k else (a ++ b).getLsbD (k - 16) :=
    (BitVec.getLsbD_append (x := a ++ b) (y := c ++ d)).trans (by split <;> simp_all)
  rw [h, BitVec.getLsbD_append, BitVec.getLsbD_append]
  split_ifs <;> first | omega | rfl

theorem byte3_bit (w : Word) {k : Nat} (h : k < 8) : (byte3 w).getLsbD k = w.getLsbD (24 + k) := by
  simp [byte3, h]

theorem byte2_bit (w : Word) {k : Nat} (h : k < 8) : (byte2 w).getLsbD k = w.getLsbD (16 + k) := by
  simp [byte2, h]

theorem byte1_bit (w : Word) {k : Nat} (h : k < 8) : (byte1 w).getLsbD k = w.getLsbD (8 + k) := by
  simp [byte1, h]

theorem byte0_bit (w : Word) {k : Nat} (h : k < 8) : (byte0 w).getLsbD k = w.getLsbD k := by
  simp [byte0, h]

/-! ### The bytes of a word -/

@[simp] theorem byte3_wordOfBytes (a b c d : Byte) : byte3 (wordOfBytes a b c d) = a := by
  apply BitVec.eq_of_getLsbD_eq
  intro k hk
  rw [byte3_bit _ hk, wordOfBytes_bit]
  split_ifs <;> first | omega | rfl | (congr 1; omega)

@[simp] theorem byte2_wordOfBytes (a b c d : Byte) : byte2 (wordOfBytes a b c d) = b := by
  apply BitVec.eq_of_getLsbD_eq
  intro k hk
  rw [byte2_bit _ hk, wordOfBytes_bit]
  split_ifs <;> first | omega | rfl | (congr 1; omega)

@[simp] theorem byte1_wordOfBytes (a b c d : Byte) : byte1 (wordOfBytes a b c d) = c := by
  apply BitVec.eq_of_getLsbD_eq
  intro k hk
  rw [byte1_bit _ hk, wordOfBytes_bit]
  split_ifs <;> first | omega | rfl | (congr 1; omega)

@[simp] theorem byte0_wordOfBytes (a b c d : Byte) : byte0 (wordOfBytes a b c d) = d := by
  apply BitVec.eq_of_getLsbD_eq
  intro k hk
  rw [byte0_bit _ hk, wordOfBytes_bit]
  rw [if_pos hk]

@[simp] theorem wordOfBytes_bytes (w : Word) : wordOfBytes (byte3 w) (byte2 w) (byte1 w) (byte0 w) = w := by
  apply BitVec.eq_of_getLsbD_eq
  intro k hk
  rw [wordOfBytes_bit]
  split_ifs
  · rw [byte0_bit _ (by omega)]
  · rw [byte1_bit _ (by omega)]; congr 1; omega
  · rw [byte2_bit _ (by omega)]; congr 1; omega
  · rw [byte3_bit _ (by omega)]; congr 1; omega

theorem wordOfBytes_and (a b c d a' b' c' d' : Byte) :
    wordOfBytes a b c d &&& wordOfBytes a' b' c' d' =
      wordOfBytes (a &&& a') (b &&& b') (c &&& c') (d &&& d') := by
  apply BitVec.eq_of_getLsbD_eq
  intro k hk
  simp only [BitVec.getLsbD_and, wordOfBytes_bit]
  split_ifs <;> simp

/-- BEW has exactly 4 bytes (R80). -/
@[simp] theorem length_bew (w : Word) : (bew w).length = 4 := rfl

/-- The inverse of R82 undoes BEW. -/
@[simp] theorem unbew_bew (w : Word) : unbew (bew w) = some w := by
  simp [unbew, bew]

/-! ### The fields of a command word -/

@[simp] theorem operandField_commandWord (o : Byte) (x : Word) : operandField (commandWord o x) = x := by
  apply BitVec.eq_of_getLsbD_eq
  intro k hk
  rw [operandField, BitVec.getLsbD_extractLsb', commandWord_bit]
  simp [hk]

@[simp] theorem opcodeField_commandWord (o : Byte) (x : Word) : opcodeField (commandWord o x) = o := by
  apply BitVec.eq_of_getLsbD_eq
  intro k hk
  rw [opcodeField, BitVec.getLsbD_extractLsb', commandWord_bit]
  simp [hk]

@[simp] theorem commandWord_fields (c : Command) : commandWord (opcodeField c) (operandField c) = c := by
  apply BitVec.eq_of_getLsbD_eq
  intro k hk
  rw [commandWord_bit, opcodeField, operandField, BitVec.getLsbD_extractLsb', BitVec.getLsbD_extractLsb']
  split_ifs with h
  · simp [h]
  · simp [show k - 32 < 8 by omega, show 32 + (k - 32) = k by omega]

theorem commandWord_and (o p : Byte) (x y : Word) :
    commandWord o x &&& commandWord p y = commandWord (o &&& p) (x &&& y) := by
  apply BitVec.eq_of_getLsbD_eq
  intro k hk
  simp only [BitVec.getLsbD_and, commandWord_bit]
  split_ifs <;> simp

/-- Two command words are equal when their fields are. -/
theorem commandWord_inj {o p : Byte} {x y : Word} (h : commandWord o x = commandWord p y) : o = p ∧ x = y :=
  ⟨by simpa using congrArg opcodeField h, by simpa using congrArg operandField h⟩

/-- Decoding a word that was put together from its fields. -/
@[simp] theorem decode_commandWord (o : Byte) (x : Word) : decode (commandWord o x) = decodeFields o x := by
  simp [decode]

/-! ### The formats -/

@[simp] theorem byte0_byteOperand (b : Byte) : byte0 (byteOperand b) = b := by simp [byteOperand]

/-- A format N operand field reads back. -/
@[simp] theorem readN_zero (o : Byte) (i : Instr) : readN o 0#32 i = .ok i := rfl

/-- A format B operand field reads back. -/
@[simp] theorem readB_byteOperand (o b : Byte) (make : Byte → Instr) : readB o (byteOperand b) make = .ok (make b) := by
  simp [readB]

/-- A format P operand field reads back. -/
@[simp] theorem readP_pixelOperand (o r g b : Byte) (make : Byte → Byte → Byte → Instr) :
    readP o (pixelOperand r g b) make = .ok (make r g b) := by
  simp [readP, pixelOperand]

/-- What format N accepts. -/
theorem readN_ok {o : Byte} {x : Word} {i j : Instr} (h : readN o x i = .ok j) : j = i ∧ x = 0#32 := by
  unfold readN at h
  split at h
  · exact ⟨by cases h; rfl, ‹_›⟩
  · cases h

/-- What format B accepts. -/
theorem readB_ok {o : Byte} {x : Word} {make : Byte → Instr} {j : Instr} (h : readB o x make = .ok j) :
    ∃ b, j = make b ∧ x = byteOperand b := by
  unfold readB at h
  split at h
  · exact ⟨_, by cases h; rfl, ‹_›⟩
  · cases h

/-- What format P accepts. -/
theorem readP_ok {o : Byte} {x : Word} {make : Byte → Byte → Byte → Instr} {j : Instr} (h : readP o x make = .ok j) :
    ∃ r g b, j = make r g b ∧ x = pixelOperand r g b := by
  unfold readP at h
  split at h
  · rename_i hz
    refine ⟨_, _, _, by cases h; rfl, ?_⟩
    rw [pixelOperand, ← hz, wordOfBytes_bytes]
  · cases h

end Sys2Proof.Machine
end

