-- ==== Sys2Proof/Laws/Crc.lean ====
section
/-! SUPPORT. The iterations of spec/41_crc.md R91: they are linear over XOR, and only shift a value whose low bits are zero. -/

namespace Sys2Proof.Machine

/-- One iteration is linear over XOR. -/
theorem crcIter_xor (a b : Word) : crcIter (a ^^^ b) = crcIter a ^^^ crcIter b := by
  unfold crcIter
  simp only [BitVec.getLsbD_xor, BitVec.ushiftRight_xor_distrib]
  cases a.getLsbD 0 <;> cases b.getLsbD 0 <;> simp
  · rw [BitVec.xor_assoc]
  · rw [BitVec.xor_assoc, BitVec.xor_comm (b >>> 1), ← BitVec.xor_assoc]
  · rw [show a >>> 1 ^^^ Config.crcPoly ^^^ (b >>> 1 ^^^ Config.crcPoly) =
      (a >>> 1 ^^^ b >>> 1) ^^^ (Config.crcPoly ^^^ Config.crcPoly) by ac_rfl]
    simp

/-- So are `n` of them. -/
theorem crcIterate_xor (n : Nat) (a b : Word) : crcIterate n (a ^^^ b) = crcIterate n a ^^^ crcIterate n b := by
  induction n generalizing a b with
  | zero => rfl
  | succ n ih => simp only [crcIterate, crcIter_xor, ih]

/-- `n` iterations on a value whose low `n` bits are zero are a shift. -/
theorem crcIterate_high (n : Nat) (a : Word) (h : ∀ k < n, a.getLsbD k = false) : crcIterate n a = a >>> n := by
  induction n generalizing a with
  | zero => simp [crcIterate]
  | succ n ih =>
    have h0 : crcIter a = a >>> 1 := by rw [crcIter, h 0 (by omega)]; rfl
    rw [crcIterate, h0, ih _ (fun k hk => by rw [BitVec.getLsbD_ushiftRight]; exact h _ (by omega)),
      ← BitVec.shiftRight_add, Nat.add_comm]

/-- A run over two sequences is two runs (R92). -/
theorem crcRun_append (a : Word) (s t : List Byte) : crcRun a (s ++ t) = crcRun (crcRun a s) t := List.foldl_append

@[simp] theorem crcRun_nil (a : Word) : crcRun a [] = a := rfl

@[simp] theorem crcRun_cons (a : Word) (b : Byte) (s : List Byte) : crcRun a (b :: s) = crcRun (crcStep a b) s := rfl

end Sys2Proof.Machine
end

