-- ==== Sys2Proof/Laws/State.lean ====
section
/-! SUPPORT. One lemma per field of State per named update of Machine/Ops.lean, each true by rfl, so that no proof unfolds a
record update; and the buffer primitives as plain list operations. -/

namespace Sys2Proof.Machine

/-! ### setAcc -/

section

variable (v : Word) (s : State)

@[simp] theorem setAcc_acc : (setAcc v s).acc = v := rfl
@[simp] theorem setAcc_width : (setAcc v s).width = s.width := rfl
@[simp] theorem setAcc_height : (setAcc v s).height = s.height := rfl
@[simp] theorem setAcc_row : (setAcc v s).row = s.row := rfl
@[simp] theorem setAcc_col : (setAcc v s).col = s.col := rfl
@[simp] theorem setAcc_active : (setAcc v s).active = s.active := rfl
@[simp] theorem setAcc_slb : (setAcc v s).slb = s.slb := rfl
@[simp] theorem setAcc_pb : (setAcc v s).pb = s.pb := rfl
@[simp] theorem setAcc_mode : (setAcc v s).mode = s.mode := rfl
@[simp] theorem setAcc_err : (setAcc v s).err = s.err := rfl
@[simp] theorem setAcc_rsp : (setAcc v s).rsp = s.rsp := rfl
@[simp] theorem setAcc_cfg : (setAcc v s).cfg = s.cfg := rfl
@[simp] theorem setAcc_inputs : (setAcc v s).inputs = s.inputs := rfl
@[simp] theorem setAcc_freeUses : (setAcc v s).freeUses = s.freeUses := rfl

end

/-! ### setWidth -/

section

variable (w : Word) (s : State)

@[simp] theorem setWidth_acc : (setWidth w s).acc = s.acc := rfl
@[simp] theorem setWidth_width : (setWidth w s).width = w := rfl
@[simp] theorem setWidth_height : (setWidth w s).height = s.height := rfl
@[simp] theorem setWidth_row : (setWidth w s).row = s.row := rfl
@[simp] theorem setWidth_col : (setWidth w s).col = s.col := rfl
@[simp] theorem setWidth_active : (setWidth w s).active = s.active := rfl
@[simp] theorem setWidth_slb : (setWidth w s).slb = s.slb := rfl
@[simp] theorem setWidth_pb : (setWidth w s).pb = s.pb := rfl
@[simp] theorem setWidth_mode : (setWidth w s).mode = s.mode := rfl
@[simp] theorem setWidth_err : (setWidth w s).err = s.err := rfl
@[simp] theorem setWidth_rsp : (setWidth w s).rsp = s.rsp := rfl
@[simp] theorem setWidth_cfg : (setWidth w s).cfg = s.cfg := rfl
@[simp] theorem setWidth_inputs : (setWidth w s).inputs = s.inputs := rfl
@[simp] theorem setWidth_freeUses : (setWidth w s).freeUses = s.freeUses := rfl

end

/-! ### setHeight -/

section

variable (h : Word) (s : State)

@[simp] theorem setHeight_acc : (setHeight h s).acc = s.acc := rfl
@[simp] theorem setHeight_width : (setHeight h s).width = s.width := rfl
@[simp] theorem setHeight_height : (setHeight h s).height = h := rfl
@[simp] theorem setHeight_row : (setHeight h s).row = s.row := rfl
@[simp] theorem setHeight_col : (setHeight h s).col = s.col := rfl
@[simp] theorem setHeight_active : (setHeight h s).active = s.active := rfl
@[simp] theorem setHeight_slb : (setHeight h s).slb = s.slb := rfl
@[simp] theorem setHeight_pb : (setHeight h s).pb = s.pb := rfl
@[simp] theorem setHeight_mode : (setHeight h s).mode = s.mode := rfl
@[simp] theorem setHeight_err : (setHeight h s).err = s.err := rfl
@[simp] theorem setHeight_rsp : (setHeight h s).rsp = s.rsp := rfl
@[simp] theorem setHeight_cfg : (setHeight h s).cfg = s.cfg := rfl
@[simp] theorem setHeight_inputs : (setHeight h s).inputs = s.inputs := rfl
@[simp] theorem setHeight_freeUses : (setHeight h s).freeUses = s.freeUses := rfl

end

/-! ### setGrid -/

section

variable (a : Bool) (s : State)

@[simp] theorem setGrid_acc : (setGrid a s).acc = s.acc := rfl
@[simp] theorem setGrid_width : (setGrid a s).width = s.width := rfl
@[simp] theorem setGrid_height : (setGrid a s).height = s.height := rfl
@[simp] theorem setGrid_row : (setGrid a s).row = 0#32 := rfl
@[simp] theorem setGrid_col : (setGrid a s).col = 0#32 := rfl
@[simp] theorem setGrid_active : (setGrid a s).active = a := rfl
@[simp] theorem setGrid_slb : (setGrid a s).slb = [] := rfl
@[simp] theorem setGrid_pb : (setGrid a s).pb = s.pb := rfl
@[simp] theorem setGrid_mode : (setGrid a s).mode = s.mode := rfl
@[simp] theorem setGrid_err : (setGrid a s).err = s.err := rfl
@[simp] theorem setGrid_rsp : (setGrid a s).rsp = s.rsp := rfl
@[simp] theorem setGrid_cfg : (setGrid a s).cfg = s.cfg := rfl
@[simp] theorem setGrid_inputs : (setGrid a s).inputs = s.inputs := rfl
@[simp] theorem setGrid_freeUses : (setGrid a s).freeUses = s.freeUses := rfl

end

/-! ### pushPixel -/

section

variable (bs : List Byte) (s : State)

@[simp] theorem pushPixel_acc : (pushPixel bs s).acc = s.acc := rfl
@[simp] theorem pushPixel_width : (pushPixel bs s).width = s.width := rfl
@[simp] theorem pushPixel_height : (pushPixel bs s).height = s.height := rfl
@[simp] theorem pushPixel_row : (pushPixel bs s).row = s.row := rfl
@[simp] theorem pushPixel_col : (pushPixel bs s).col = s.col + 1#32 := rfl
@[simp] theorem pushPixel_active : (pushPixel bs s).active = s.active := rfl
@[simp] theorem pushPixel_slb : (pushPixel bs s).slb = memAppend s.slb bs := rfl
@[simp] theorem pushPixel_pb : (pushPixel bs s).pb = s.pb := rfl
@[simp] theorem pushPixel_mode : (pushPixel bs s).mode = s.mode := rfl
@[simp] theorem pushPixel_err : (pushPixel bs s).err = s.err := rfl
@[simp] theorem pushPixel_rsp : (pushPixel bs s).rsp = s.rsp := rfl
@[simp] theorem pushPixel_cfg : (pushPixel bs s).cfg = s.cfg := rfl
@[simp] theorem pushPixel_inputs : (pushPixel bs s).inputs = s.inputs := rfl
@[simp] theorem pushPixel_freeUses : (pushPixel bs s).freeUses = s.freeUses := rfl

end

/-! ### closeRow -/

section

variable (s : State)

@[simp] theorem closeRow_acc : (closeRow s).acc = s.acc := rfl
@[simp] theorem closeRow_width : (closeRow s).width = s.width := rfl
@[simp] theorem closeRow_height : (closeRow s).height = s.height := rfl
@[simp] theorem closeRow_row : (closeRow s).row = s.row + 1#32 := rfl
@[simp] theorem closeRow_col : (closeRow s).col = 0#32 := rfl
@[simp] theorem closeRow_active : (closeRow s).active = s.active := rfl
@[simp] theorem closeRow_slb : (closeRow s).slb = s.slb := rfl
@[simp] theorem closeRow_pb : (closeRow s).pb = s.pb := rfl
@[simp] theorem closeRow_mode : (closeRow s).mode = s.mode := rfl
@[simp] theorem closeRow_err : (closeRow s).err = s.err := rfl
@[simp] theorem closeRow_rsp : (closeRow s).rsp = s.rsp := rfl
@[simp] theorem closeRow_cfg : (closeRow s).cfg = s.cfg := rfl
@[simp] theorem closeRow_inputs : (closeRow s).inputs = s.inputs := rfl
@[simp] theorem closeRow_freeUses : (closeRow s).freeUses = s.freeUses := rfl

end

/-! ### pushPayload -/

section

variable (bs : List Byte) (s : State)

@[simp] theorem pushPayload_acc : (pushPayload bs s).acc = s.acc := rfl
@[simp] theorem pushPayload_width : (pushPayload bs s).width = s.width := rfl
@[simp] theorem pushPayload_height : (pushPayload bs s).height = s.height := rfl
@[simp] theorem pushPayload_row : (pushPayload bs s).row = s.row := rfl
@[simp] theorem pushPayload_col : (pushPayload bs s).col = s.col := rfl
@[simp] theorem pushPayload_active : (pushPayload bs s).active = s.active := rfl
@[simp] theorem pushPayload_slb : (pushPayload bs s).slb = s.slb := rfl
@[simp] theorem pushPayload_pb : (pushPayload bs s).pb = memAppend s.pb bs := rfl
@[simp] theorem pushPayload_mode : (pushPayload bs s).mode = s.mode := rfl
@[simp] theorem pushPayload_err : (pushPayload bs s).err = s.err := rfl
@[simp] theorem pushPayload_rsp : (pushPayload bs s).rsp = s.rsp := rfl
@[simp] theorem pushPayload_cfg : (pushPayload bs s).cfg = s.cfg := rfl
@[simp] theorem pushPayload_inputs : (pushPayload bs s).inputs = s.inputs := rfl
@[simp] theorem pushPayload_freeUses : (pushPayload bs s).freeUses = s.freeUses := rfl

end

/-! ### clearPayload -/

section

variable (s : State)

@[simp] theorem clearPayload_acc : (clearPayload s).acc = s.acc := rfl
@[simp] theorem clearPayload_width : (clearPayload s).width = s.width := rfl
@[simp] theorem clearPayload_height : (clearPayload s).height = s.height := rfl
@[simp] theorem clearPayload_row : (clearPayload s).row = s.row := rfl
@[simp] theorem clearPayload_col : (clearPayload s).col = s.col := rfl
@[simp] theorem clearPayload_active : (clearPayload s).active = s.active := rfl
@[simp] theorem clearPayload_slb : (clearPayload s).slb = s.slb := rfl
@[simp] theorem clearPayload_pb : (clearPayload s).pb = [] := rfl
@[simp] theorem clearPayload_mode : (clearPayload s).mode = s.mode := rfl
@[simp] theorem clearPayload_err : (clearPayload s).err = s.err := rfl
@[simp] theorem clearPayload_rsp : (clearPayload s).rsp = s.rsp := rfl
@[simp] theorem clearPayload_cfg : (clearPayload s).cfg = s.cfg := rfl
@[simp] theorem clearPayload_inputs : (clearPayload s).inputs = s.inputs := rfl
@[simp] theorem clearPayload_freeUses : (clearPayload s).freeUses = s.freeUses := rfl

end

/-! ### setFault -/

section

variable (c : Byte) (s : State)

@[simp] theorem setFault_acc : (setFault c s).acc = s.acc := rfl
@[simp] theorem setFault_width : (setFault c s).width = s.width := rfl
@[simp] theorem setFault_height : (setFault c s).height = s.height := rfl
@[simp] theorem setFault_row : (setFault c s).row = s.row := rfl
@[simp] theorem setFault_col : (setFault c s).col = s.col := rfl
@[simp] theorem setFault_active : (setFault c s).active = s.active := rfl
@[simp] theorem setFault_slb : (setFault c s).slb = s.slb := rfl
@[simp] theorem setFault_pb : (setFault c s).pb = s.pb := rfl
@[simp] theorem setFault_mode : (setFault c s).mode = .fault := rfl
@[simp] theorem setFault_err : (setFault c s).err = c := rfl
@[simp] theorem setFault_rsp : (setFault c s).rsp = s.rsp := rfl
@[simp] theorem setFault_cfg : (setFault c s).cfg = s.cfg := rfl
@[simp] theorem setFault_inputs : (setFault c s).inputs = s.inputs := rfl
@[simp] theorem setFault_freeUses : (setFault c s).freeUses = s.freeUses := rfl

end

/-! ### resetItems -/

section

variable (s : State)

@[simp] theorem resetItems_acc : (resetItems s).acc = 0xFFFFFFFF#32 := rfl
@[simp] theorem resetItems_width : (resetItems s).width = 0#32 := rfl
@[simp] theorem resetItems_height : (resetItems s).height = 0#32 := rfl
@[simp] theorem resetItems_row : (resetItems s).row = 0#32 := rfl
@[simp] theorem resetItems_col : (resetItems s).col = 0#32 := rfl
@[simp] theorem resetItems_active : (resetItems s).active = false := rfl
@[simp] theorem resetItems_slb : (resetItems s).slb = [] := rfl
@[simp] theorem resetItems_pb : (resetItems s).pb = [] := rfl
@[simp] theorem resetItems_mode : (resetItems s).mode = .run := rfl
@[simp] theorem resetItems_err : (resetItems s).err = 0x00#8 := rfl
@[simp] theorem resetItems_rsp : (resetItems s).rsp = s.rsp := rfl
@[simp] theorem resetItems_cfg : (resetItems s).cfg = s.cfg := rfl
@[simp] theorem resetItems_inputs : (resetItems s).inputs = s.inputs := rfl
@[simp] theorem resetItems_freeUses : (resetItems s).freeUses = s.freeUses := rfl

end

/-! ### setInputs -/

section

variable (xs : List HostInput) (s : State)

@[simp] theorem setInputs_acc : (setInputs xs s).acc = s.acc := rfl
@[simp] theorem setInputs_width : (setInputs xs s).width = s.width := rfl
@[simp] theorem setInputs_height : (setInputs xs s).height = s.height := rfl
@[simp] theorem setInputs_row : (setInputs xs s).row = s.row := rfl
@[simp] theorem setInputs_col : (setInputs xs s).col = s.col := rfl
@[simp] theorem setInputs_active : (setInputs xs s).active = s.active := rfl
@[simp] theorem setInputs_slb : (setInputs xs s).slb = s.slb := rfl
@[simp] theorem setInputs_pb : (setInputs xs s).pb = s.pb := rfl
@[simp] theorem setInputs_mode : (setInputs xs s).mode = s.mode := rfl
@[simp] theorem setInputs_err : (setInputs xs s).err = s.err := rfl
@[simp] theorem setInputs_rsp : (setInputs xs s).rsp = s.rsp := rfl
@[simp] theorem setInputs_cfg : (setInputs xs s).cfg = s.cfg := rfl
@[simp] theorem setInputs_inputs : (setInputs xs s).inputs = xs := rfl
@[simp] theorem setInputs_freeUses : (setInputs xs s).freeUses = s.freeUses := rfl

end

/-! ### countFreeUse -/

section

variable (s : State)

@[simp] theorem countFreeUse_acc : (countFreeUse s).acc = s.acc := rfl
@[simp] theorem countFreeUse_width : (countFreeUse s).width = s.width := rfl
@[simp] theorem countFreeUse_height : (countFreeUse s).height = s.height := rfl
@[simp] theorem countFreeUse_row : (countFreeUse s).row = s.row := rfl
@[simp] theorem countFreeUse_col : (countFreeUse s).col = s.col := rfl
@[simp] theorem countFreeUse_active : (countFreeUse s).active = s.active := rfl
@[simp] theorem countFreeUse_slb : (countFreeUse s).slb = s.slb := rfl
@[simp] theorem countFreeUse_pb : (countFreeUse s).pb = s.pb := rfl
@[simp] theorem countFreeUse_mode : (countFreeUse s).mode = s.mode := rfl
@[simp] theorem countFreeUse_err : (countFreeUse s).err = s.err := rfl
@[simp] theorem countFreeUse_rsp : (countFreeUse s).rsp = s.rsp := rfl
@[simp] theorem countFreeUse_cfg : (countFreeUse s).cfg = s.cfg := rfl
@[simp] theorem countFreeUse_inputs : (countFreeUse s).inputs = s.inputs := rfl
@[simp] theorem countFreeUse_freeUses : (countFreeUse s).freeUses = s.freeUses + 1 := rfl

end

/-! ### respond -/

section

variable (c : Byte) (d : List Byte) (s : State)

@[simp] theorem respond_acc : (respond c d s).acc = s.acc := rfl
@[simp] theorem respond_width : (respond c d s).width = s.width := rfl
@[simp] theorem respond_height : (respond c d s).height = s.height := rfl
@[simp] theorem respond_row : (respond c d s).row = s.row := rfl
@[simp] theorem respond_col : (respond c d s).col = s.col := rfl
@[simp] theorem respond_active : (respond c d s).active = s.active := rfl
@[simp] theorem respond_slb : (respond c d s).slb = s.slb := rfl
@[simp] theorem respond_pb : (respond c d s).pb = s.pb := rfl
@[simp] theorem respond_mode : (respond c d s).mode = s.mode := rfl
@[simp] theorem respond_err : (respond c d s).err = s.err := rfl
@[simp] theorem respond_rsp : (respond c d s).rsp = s.rsp ++ [⟨c, d⟩] := rfl
@[simp] theorem respond_cfg : (respond c d s).cfg = s.cfg := rfl
@[simp] theorem respond_inputs : (respond c d s).inputs = s.inputs := rfl
@[simp] theorem respond_freeUses : (respond c d s).freeUses = s.freeUses := rfl

end

/-! ### The buffer primitives -/

/-- A write at the end of a buffer appends. -/
@[simp] theorem memAppend_eq (buf s : List Byte) : memAppend buf s = buf ++ s := by
  simp [memAppend, memWrite]

/-- A read of a whole buffer is the buffer. -/
@[simp] theorem memReadAll_eq (buf : List Byte) : memReadAll buf = buf := by
  simp [memReadAll, memRead]

/-- Appending leaves every byte already in the buffer where it is. -/
theorem memAppend_keeps (buf s : List Byte) {k : Nat} (h : k < buf.length) : (memAppend buf s)[k]? = buf[k]? := by
  simp [List.getElem?_append_left h]

/-! ### Updates that commute -/

/-- Delivering a response commutes with taking the host's inputs. -/
theorem respond_setInputs (c : Byte) (d : List Byte) (xs : List HostInput) (s : State) :
    respond c d (setInputs xs s) = setInputs xs (respond c d s) := rfl

/-- The reset state keeps the response log. -/
theorem resetItems_respond (c : Byte) (d : List Byte) (s : State) :
    resetItems (respond c d s) = respond c d (resetItems s) := rfl

/-- Reset of the items forgets what a fault wrote. -/
theorem resetItems_setFault (c : Byte) (s : State) : resetItems (setFault c s) = resetItems s := rfl

end Sys2Proof.Machine
end

