-- ==== Sys2Proof/Laws/Exec.lean ====
section
/-! SUPPORT. What each shared operation can answer, and all that `exec` can answer, in one equation (`exec_eq`): refused in
FAULT mode, one fault, or completed. Later proofs cite these and unfold no meaning. -/

namespace Sys2Proof.Machine

/-! ### The shared operations -/

@[simp] theorem inRunMode_run {s : State} (h : s.mode = .run) (body : Result) : inRunMode s body = body := by
  simp [inRunMode, h]

@[simp] theorem inRunMode_fault {s : State} (h : s.mode = .fault) (body : Result) :
    inRunMode s body = .next (respond s.err [] s) := by
  simp [inRunMode, h, refuseWord]

@[simp] theorem check_pass {bad : Bool} (h : bad = false) (c : FaultCode) (s : State) (rest : Result) :
    check bad c s rest = rest := by
  simp [check, h]

@[simp] theorem check_fail {bad : Bool} (h : bad = true) (c : FaultCode) (s : State) (rest : Result) :
    check bad c s rest = .next (respond (faultCode c) [] (setFault (faultCode c) s)) := by
  simp [check, h, raiseFault]

/-- No code of R160 is OK. -/
@[simp] theorem faultCode_ne_ok (c : FaultCode) : faultCode c ≠ 0x00#8 := by cases c <;> decide

/-- The two modes. -/
theorem mode_cases (s : State) : s.mode = .run ∨ s.mode = .fault := by cases s.mode <;> simp

/-! ### `exec` in one equation -/

/-- The first check of the command's pseudocode that fails, if any (R166 step 4). -/
def firstFault (i : Instr) (s : State) : Option FaultCode :=
  match i with
  | .bewEnc _ => none
  | .crcInit => none
  | .crcUpd _ => none
  | .crcFin => none
  | .slpSetw _ => if s.active then some .protocol else none
  | .slpSeth _ => if s.active then some .protocol else none
  | .slpBegin =>
    if s.active then some .protocol else if dimensionZero s then some .malformedInput
    else if gridTooLarge s then some .capacity else none
  | .slpPix _ _ _ =>
    if !s.active then some .protocol else if rowsDone s || rowFull s then some .malformedInput else none
  | .slpEor => if !s.active then some .protocol else if rowsDone s || !rowFull s then some .malformedInput else none
  | .slpPack => if !s.active then some .protocol else if !rowsDone s || !rowUnopened s then some .malformedInput else none
  | .chbPushb _ => if payloadFull 1 s then some .capacity else none
  | .chbPushw _ => if payloadFull 4 s then some .capacity else none
  | .chbBuild _ => none
  | .sysRst => none

/-- What a command that passes its checks writes. -/
def effect (i : Instr) (s : State) : State :=
  match i with
  | .bewEnc _ => s
  | .crcInit => setAcc Config.crcInit s
  | .crcUpd b => setAcc (crcStep s.acc b) s
  | .crcFin => s
  | .slpSetw w => setWidth w s
  | .slpSeth h => setHeight h s
  | .slpBegin => setGrid true s
  | .slpPix r g b => pushPixel (pixelAppend r g b s) s
  | .slpEor => closeRow s
  | .slpPack => setGrid false s
  | .chbPushb b => pushPayload [b] s
  | .chbPushw w => pushPayload (bew w) s
  | .chbBuild t => clearPayload (setAcc (crcAcc (bew t ++ s.pb)) s)
  | .sysRst => resetItems s

/-- What a command that passes its checks emits. -/
def emitted (i : Instr) (s : State) : List Byte :=
  match i with
  | .bewEnc w => bew w
  | .crcInit => []
  | .crcUpd _ => []
  | .crcFin => bew (crcFinal s.acc)
  | .slpSetw _ => []
  | .slpSeth _ => []
  | .slpBegin => []
  | .slpPix _ _ _ => []
  | .slpEor => []
  | .slpPack => s.slb
  | .chbPushb _ => []
  | .chbPushw _ => []
  | .chbBuild t => chunk t s.pb
  | .sysRst => []

/-- The state after a command. -/
def after (i : Instr) (s : State) : State :=
  if s.mode = .fault ∧ i ≠ .sysRst then respond s.err [] s
  else
    match firstFault i s with
    | some c => respond (faultCode c) [] (setFault (faultCode c) s)
    | none => respond 0x00#8 (emitted i s) (effect i s)

/-- All that `exec` can answer: always a next state, and this one. -/
theorem exec_eq (i : Instr) (s : State) : exec i s = .next (after i s) := by
  rcases mode_cases s with hm | hm <;> cases i <;>
    simp [exec, after, firstFault, effect, emitted, execBewEnc, execCrcInit, execCrcUpd, execCrcFin, execSlpSetw,
      execSlpSeth, execSlpBegin, execSlpPix, execSlpEor, execSlpPack, execChbPushb, execChbPushw, execChbBuild, execSysRst,
      hm, resetCore, complete, gridActive, gridInactive, check, raiseFault, chunk, crc32, crcAcc]
  all_goals (split_ifs <;> simp_all <;> split_ifs <;> simp_all)

end Sys2Proof.Machine
end

