-- ==== Sys2Proof/Laws/Memory.lean ====
section
/-! SUPPORT. The buffers: every operation that changes one keeps it within its capacity (spec/10_state.md R33 items 1 and 6)
when the command's check has passed, and the reset buffers are within any capacity. -/

namespace Sys2Proof.Machine

/-- An empty buffer fits. -/
@[simp] theorem bufferWithin_nil (cap : Nat) : bufferWithin cap [] = true := by simp [bufferWithin]

/-- Appending fits exactly when the sizes say so. -/
theorem bufferWithin_memAppend (cap : Nat) (buf s : List Byte) :
    bufferWithin cap (memAppend buf s) = decide (buf.length + s.length ≤ cap) := by
  simp [bufferWithin]

/-- A write at the end never shortens what is there. -/
theorem length_memAppend (buf s : List Byte) : (memAppend buf s).length = buf.length + s.length := by simp

/-- The reset buffers. -/
theorem resetWith_memWf (cfg : Config) : (State.resetWith cfg).memWf = true := by
  simp [State.memWf, State.resetWith]

/-- The reset buffers of `State.reset`. -/
theorem reset_memWf : State.reset.memWf = true := resetWith_memWf _

/-- Reset keeps the form. -/
theorem resetItems_memWf (s : State) : (resetItems s).memWf = true := by simp [State.memWf]

/-- A push whose check passed keeps the form (R121, R122). -/
theorem pushPayload_memWf {bytes : List Byte} {s : State} (h : payloadFull bytes.length s = false) (w : s.memWf = true) :
    (pushPayload bytes s).memWf = true := by
  simp only [State.memWf, Bool.and_eq_true] at w ⊢
  refine ⟨?_, w.2⟩
  rw [pushPayload_pb, pushPayload_cfg, bufferWithin_memAppend]
  simpa [payloadFull] using h

/-- A pixel that fits keeps the form (R105). -/
theorem pushPixel_memWf {bytes : List Byte} {s : State} (h : s.slb.length + bytes.length ≤ s.cfg.slbCap)
    (w : s.memWf = true) : (pushPixel bytes s).memWf = true := by
  simp only [State.memWf, Bool.and_eq_true] at w ⊢
  refine ⟨w.1, ?_⟩
  rw [pushPixel_slb, pushPixel_cfg, bufferWithin_memAppend]
  simpa using h

/-- Emptying PB keeps the form (R123). -/
theorem clearPayload_memWf {s : State} (w : s.memWf = true) : (clearPayload s).memWf = true := by
  simp_all [State.memWf]

/-- Emptying SLB keeps the form (R104, R107). -/
theorem setGrid_memWf {a : Bool} {s : State} (w : s.memWf = true) : (setGrid a s).memWf = true := by
  simp_all [State.memWf]

end Sys2Proof.Machine
end

