-- ==== Sys2Proof/Laws/Step.lean ====
section
/-! SUPPORT. What a step can do, once for each input of the host, and what every command leaves alone. Proofs about `step`
cite `step_cases` and `executeWord_eq` and unfold neither the port nor a meaning. -/

namespace Sys2Proof.Machine

/-! ### What a command leaves alone -/

/-- Every command answers exactly one response (R70). -/
theorem after_rsp (i : Instr) (s : State) : ∃ r, (after i s).rsp = s.rsp ++ [r] := by
  unfold after
  split
  · exact ⟨_, rfl⟩
  · split
    · exact ⟨_, rfl⟩
    · exact ⟨⟨0x00#8, emitted i s⟩, by cases i <;> rfl⟩

@[simp] theorem effect_rsp (i : Instr) (s : State) : (effect i s).rsp = s.rsp := by cases i <;> rfl

@[simp] theorem effect_cfg (i : Instr) (s : State) : (effect i s).cfg = s.cfg := by cases i <;> rfl

@[simp] theorem effect_inputs (i : Instr) (s : State) : (effect i s).inputs = s.inputs := by cases i <;> rfl

@[simp] theorem effect_freeUses (i : Instr) (s : State) : (effect i s).freeUses = s.freeUses := by cases i <;> rfl

/-- A command that completes leaves MODE and ERR alone, SYS.RST apart. -/
theorem effect_mode {i : Instr} (h : i ≠ .sysRst) (s : State) : (effect i s).mode = s.mode ∧ (effect i s).err = s.err := by
  cases i <;> first | exact absurd rfl h | exact ⟨rfl, rfl⟩

@[simp] theorem after_cfg (i : Instr) (s : State) : (after i s).cfg = s.cfg := by
  unfold after; split <;> [rfl; split] <;> simp

@[simp] theorem after_inputs (i : Instr) (s : State) : (after i s).inputs = s.inputs := by
  unfold after; split <;> [rfl; split] <;> simp

@[simp] theorem after_freeUses (i : Instr) (s : State) : (after i s).freeUses = s.freeUses := by
  unfold after; split <;> [rfl; split] <;> simp

/-! ### `after` by mode -/

/-- SYS.RST, in either mode (R130). -/
theorem after_sysRst (s : State) : after .sysRst s = respond 0x00#8 [] (resetItems s) := by
  simp [after, firstFault, emitted, effect]

/-- Any other command in FAULT mode (R168). -/
theorem after_fault {i : Instr} {s : State} (h : s.mode = .fault) (hi : i ≠ .sysRst) :
    after i s = respond s.err [] s := by
  simp [after, h, hi]

/-- A command whose checks pass, in RUN mode. -/
theorem after_run {i : Instr} {s : State} (h : s.mode = .run) (hf : firstFault i s = none) :
    after i s = respond 0x00#8 (emitted i s) (effect i s) := by
  simp [after, h, hf]

/-- A command whose first failing check raises `c`, in RUN mode (R167). -/
theorem after_raise {i : Instr} {s : State} {c : FaultCode} (h : s.mode = .run) (hf : firstFault i s = some c) :
    after i s = respond (faultCode c) [] (setFault (faultCode c) s) := by
  simp [after, h, hf]

/-- The fault entry as the statements write it (R167). -/
theorem after_faulted {i : Instr} {s : State} (c : FaultCode) (h : s.mode = .run) (hf : firstFault i s = some c) :
    after i s = faulted c s := after_raise h hf

/-- Completion as the statements write it (R70). -/
theorem after_answered {i : Instr} {s : State} (h : s.mode = .run) (hf : firstFault i s = none) :
    after i s = answered (emitted i s) (effect i s) := after_run h hf

/-- SYS.RST raises nothing. -/
@[simp] theorem firstFault_sysRst (s : State) : firstFault .sysRst s = none := rfl

/-- The three things a command can do, apart from SYS.RST: be refused, raise a fault, complete. -/
theorem after_cases (i : Instr) (s : State) :
    (s.mode = .fault ∧ i ≠ .sysRst ∧ after i s = respond s.err [] s) ∨
    (∃ c, s.mode = .run ∧ i ≠ .sysRst ∧ firstFault i s = some c ∧
      after i s = respond (faultCode c) [] (setFault (faultCode c) s)) ∨
    ((s.mode = .run ∨ i = .sysRst) ∧ firstFault i s = none ∧
      after i s = respond 0x00#8 (emitted i s) (effect i s)) := by
  by_cases hi : i = .sysRst
  · subst hi; exact .inr (.inr ⟨.inr rfl, rfl, after_sysRst s⟩)
  · rcases mode_cases s with hm | hm
    · cases hf : firstFault i s with
      | none => exact .inr (.inr ⟨.inl hm, rfl, after_run hm hf⟩)
      | some c => exact .inr (.inl ⟨c, hm, hi, rfl, after_raise hm hf⟩)
    · exact .inl ⟨hm, hi, after_fault hm hi⟩

/-- A command that ends in RUN mode has completed (it raised nothing and was not refused). -/
theorem after_completed {i : Instr} {s : State} (h : (after i s).mode = .run) :
    (s.mode = .run ∨ i = .sysRst) ∧ firstFault i s = none ∧
      after i s = respond 0x00#8 (emitted i s) (effect i s) := by
  rcases after_cases i s with ⟨hm, -, h'⟩ | ⟨c, -, -, -, h'⟩ | h'
  · rw [h', respond_mode, hm] at h; cases h
  · rw [h', respond_mode, setFault_mode] at h; cases h
  · exact h'

/-! ### Words -/

/-- What a word leaves (R166). -/
def afterWord (c : Command) (s : State) : State :=
  match decode c with
  | .ok i => after i s
  | .error _ =>
    match s.mode with
    | .run => respond 0x01#8 [] (setFault 0x01#8 s)
    | .fault => respond s.err [] s

/-- Every word completes, and this is what it leaves. -/
theorem executeWord_eq (c : Command) (s : State) : executeWord c s = .next (afterWord c s) := by
  unfold executeWord afterWord
  cases decode c with
  | ok i => exact exec_eq i s
  | error e => rcases mode_cases s with h | h <;> simp [executeIllegal, h, raiseFault, faultCode]

theorem afterWord_ok {c : Command} {i : Instr} (h : decode c = .ok i) (s : State) : afterWord c s = after i s := by
  simp [afterWord, h]

theorem afterWord_illegal {c : Command} {e : Illegal} (h : decode c = .error e) {s : State} (hm : s.mode = .run) :
    afterWord c s = respond 0x01#8 [] (setFault 0x01#8 s) := by
  simp [afterWord, h, hm]

/-- In FAULT mode a word that is not SYS.RST is refused (R168). -/
theorem afterWord_fault {c : Command} {s : State} (hm : s.mode = .fault) (h : decode c ≠ .ok .sysRst) :
    afterWord c s = respond s.err [] s := by
  unfold afterWord
  cases hd : decode c with
  | ok i => exact after_fault hm fun e => h (by rw [hd, e])
  | error e => simp [hm]

/-- Every word is answered by exactly one response (R70). -/
theorem afterWord_rsp (c : Command) (s : State) : ∃ r, (afterWord c s).rsp = s.rsp ++ [r] := by
  unfold afterWord
  split
  · exact after_rsp _ s
  · split <;> exact ⟨_, rfl⟩

@[simp] theorem afterWord_cfg (c : Command) (s : State) : (afterWord c s).cfg = s.cfg := by
  unfold afterWord; split <;> [skip; split] <;> simp

@[simp] theorem afterWord_inputs (c : Command) (s : State) : (afterWord c s).inputs = s.inputs := by
  unfold afterWord; split <;> [skip; split] <;> simp

@[simp] theorem afterWord_freeUses (c : Command) (s : State) : (afterWord c s).freeUses = s.freeUses := by
  unfold afterWord; split <;> [skip; split] <;> simp

/-! ### The step -/

theorem step_idle {s : State} (h : s.inputs = []) : step s = .next s := by
  simp [step, portStep, h]

theorem step_word {s : State} {c : Command} {rest : List HostInput} (h : s.inputs = .word c :: rest) :
    step s = .next (afterWord c (setInputs rest s)) := by
  simp [step, portStep, h, takeInput, executeWord_eq]

theorem step_resetInput {s : State} {rest : List HostInput} (h : s.inputs = .resetInput :: rest) :
    step s = .next (resetItems (setInputs rest s)) := by
  simp [step, portStep, h, takeInput, resetCore]

theorem step_resetDuring {s : State} {c : Command} {rest : List HostInput} (h : s.inputs = .resetDuring c :: rest) :
    step s = .next (cutShort c (setInputs rest s)) := by
  simp [step, portStep, h, takeInput]

theorem step_breach {s : State} {b : PortBreach} {rest : List HostInput} (h : s.inputs = .breach b :: rest) :
    step s = .fault (.portBreach b) := by
  simp [step, portStep, h, takeInput]

/-- All that a step that answers a next state can have done. -/
theorem step_cases {s t : State} (h : step s = .next t) :
    (s.inputs = [] ∧ t = s) ∨
    (∃ c rest, s.inputs = .word c :: rest ∧ t = afterWord c (setInputs rest s)) ∨
    (∃ rest, s.inputs = .resetInput :: rest ∧ t = resetItems (setInputs rest s)) ∨
    (∃ c rest, s.inputs = .resetDuring c :: rest ∧ t = cutShort c (setInputs rest s)) := by
  cases hx : s.inputs with
  | nil => rw [step_idle hx] at h; exact .inl ⟨rfl, by cases h; rfl⟩
  | cons x rest =>
    cases x with
    | word c => rw [step_word hx] at h; exact .inr (.inl ⟨c, rest, rfl, by cases h; rfl⟩)
    | resetInput => rw [step_resetInput hx] at h; exact .inr (.inr (.inl ⟨rest, rfl, by cases h; rfl⟩))
    | resetDuring c => rw [step_resetDuring hx] at h; exact .inr (.inr (.inr ⟨c, rest, rfl, by cases h; rfl⟩))
    | breach b => rw [step_breach hx] at h; cases h

/-! ### A command cut short (U3) -/

/-- The items, the parameters and the inputs after a command cut short are those of a reset. -/
theorem cutShort_items (c : Command) (s : State) :
    ∃ log, cutShort c s = countFreeUse { resetItems s with rsp := log } ∧ s.rsp <+: log := by
  cases h : Config.cutResponse s.freeUses with
  | none => exact ⟨s.rsp, by simp [cutShort, respondCut, h, resetCore, resetItems], List.prefix_rfl⟩
  | some cut =>
    exact ⟨s.rsp ++ [⟨cut.1, (dataOf c s).take cut.2⟩], by simp [cutShort, respondCut, h, resetCore, respond, resetItems],
      List.prefix_append _ _⟩

/-- The data of a word's response. -/
theorem dataOf_eq {c : Command} {s : State} {r : Response} (h : (afterWord c s).rsp = s.rsp ++ [r]) :
    dataOf c s = r.data := by
  simp [dataOf, executeWord_eq, lastData, h]

end Sys2Proof.Machine
end

