-- ==== Sys2Proof/Laws/Sequence.lean ====
section
/-! SUPPORT. Sequences of commands and of steps: what issuing a list of commands leaves, one command at a time, and a run of
the machine one step at a time. -/

namespace Sys2Proof.Machine

/-- The state after a list of commands. -/
def afterAll (cs : List Instr) (s : State) : State := cs.foldl (fun s i => after i s) s

@[simp] theorem afterAll_nil (s : State) : afterAll [] s = s := rfl

@[simp] theorem afterAll_cons (i : Instr) (cs : List Instr) (s : State) :
    afterAll (i :: cs) s = afterAll cs (after i s) := rfl

theorem afterAll_append (cs ds : List Instr) (s : State) : afterAll (cs ++ ds) s = afterAll ds (afterAll cs s) :=
  List.foldl_append

/-- Issuing commands always ends in a next state, and this is it. -/
theorem execAll_eq (cs : List Instr) (s : State) : execAll cs s = .next (afterAll cs s) := by
  induction cs generalizing s with
  | nil => rfl
  | cons i cs ih => simp [execAll, exec_eq, ih]

@[simp] theorem afterAll_cfg (cs : List Instr) (s : State) : (afterAll cs s).cfg = s.cfg := by
  induction cs generalizing s with
  | nil => rfl
  | cons i cs ih => simp [ih]

/-- FAULT mode lasts until SYS.RST (R168), over any sequence of other commands. -/
theorem afterAll_fault {cs : List Instr} {s : State} (h : s.mode = .fault) (hc : ∀ i ∈ cs, i ≠ .sysRst) :
    afterAll cs s = { s with rsp := s.rsp ++ List.replicate cs.length ⟨s.err, []⟩ } := by
  induction cs generalizing s with
  | nil => simp
  | cons i cs ih =>
    rw [afterAll_cons, after_fault h (hc i (by simp)), ih (s := respond s.err [] s) h fun j hj => hc j (by simp [hj])]
    simp [respond, List.replicate_succ]

/-- A sequence without SYS.RST that ends in RUN mode began in RUN mode and stayed there. -/
theorem afterAll_run {cs : List Instr} {s : State} (h : (afterAll cs s).mode = .run) (hc : ∀ i ∈ cs, i ≠ .sysRst) :
    s.mode = .run := by
  rcases mode_cases s with hm | hm
  · exact hm
  · rw [afterAll_fault hm hc] at h; exact absurd (hm.symm.trans h) (by simp)

/-- The last response after one command. -/
theorem lastResponse_respond (c : Byte) (d : List Byte) (s : State) : lastResponse (respond c d s) = ⟨c, d⟩ := by
  simp [lastResponse]

/-- Issuing with a look at each status: a command that completes hands its data on. -/
theorem issue_cons_ok {i : Instr} {cs : List Instr} {s : State} {d : List Byte} {t : State}
    (h : after i s = respond 0x00#8 d t) :
    issue (i :: cs) s =
      match issue cs (respond 0x00#8 d t) with
      | .ok data u => .ok (d ++ data) u
      | .failed status u => .failed status u
      | .stopped => .stopped := by
  cases hr : issue cs (respond 0x00#8 d t) <;> simp [issue, exec_eq, h, lastResponse_respond, hr]

/-- Issuing stops at the first status that is not OK. -/
theorem issue_cons_failed {i : Instr} {cs : List Instr} {s : State} {c : Byte} {d : List Byte} {t : State}
    (h : after i s = respond c d t) (hc : c ≠ 0x00#8) : issue (i :: cs) s = .failed c (respond c d t) := by
  simp [issue, exec_eq, h, lastResponse_respond, hc]

/-- Issuing two lists one after the other. -/
theorem issue_append (cs ds : List Instr) (s : State) :
    issue (cs ++ ds) s =
      match issue cs s with
      | .ok data t =>
        match issue ds t with
        | .ok more u => .ok (data ++ more) u
        | .failed status u => .failed status u
        | .stopped => .stopped
      | .failed status u => .failed status u
      | .stopped => .stopped := by
  induction cs generalizing s with
  | nil => simp only [List.nil_append, issue]; cases issue ds s <;> simp
  | cons i cs ih =>
    simp only [List.cons_append, issue, exec_eq, ih]
    by_cases h : (lastResponse (after i s)).status = 0x00#8
    · simp only [h, if_true]
      cases issue cs (after i s) with
      | ok data t => simp only; cases issue ds t <;> simp
      | failed c u => rfl
      | stopped => rfl
    · simp only [h, if_false]

/-! ### Runs of the machine -/

/-- No step from a state: the state. -/
@[simp] theorem runSteps_zero (s : State) : runSteps 0 s = .next s := rfl

/-- One step and then the rest. -/
theorem runSteps_succ {s t : State} (h : step s = .next t) (k : Nat) : runSteps (k + 1) s = runSteps k t := by
  simp [runSteps, h]

/-- A run that answers a next state begins with a step that does. -/
theorem runSteps_next {k : Nat} {s t : State} (h : runSteps (k + 1) s = .next t) :
    ∃ u, step s = .next u ∧ runSteps k u = .next t := by
  cases hs : step s with
  | next u => exact ⟨u, rfl, by rwa [runSteps_succ hs] at h⟩
  | fault f => simp [runSteps, hs] at h
  | refused r => simp [runSteps, hs] at h

/-- An invariant that every step keeps holds after a run. -/
theorem runSteps_invariant {P : State → Prop} (hP : ∀ s t, P s → step s = .next t → P t) {k : Nat} {s t : State}
    (hs : P s) (h : runSteps k s = .next t) : P t := by
  induction k generalizing s with
  | zero => cases h; exact hs
  | succ k ih =>
    obtain ⟨u, hu, hr⟩ := runSteps_next h
    exact ih (hP s u hs hu) hr

/-- The host's runner of a machine, at this machine. -/
theorem core_run_eq (k : Nat) (s : State) : Host.Core.run Sys2Proof.core k s = runSteps k s := by
  induction k generalizing s with
  | zero => rfl
  | succ k ih =>
    simp only [Host.Core.run, Sys2Proof.core, runSteps]
    cases step s with
    | next t => exact ih t
    | fault f => rfl
    | refused r => rfl

end Sys2Proof.Machine
end

