-- ==== Sys2Proof/Laws/Packer.lean ====
section
/-! SUPPORT. The layout of a packed row and what the commands of a pixel run, a row, a list of rows and a payload leave, each
shown once by induction over the list (spec/42_slp.md R100, R105, R106; spec/43_chb.md R121). -/

namespace Sys2Proof.Machine

/-! ### The layout of a row -/

theorem length_rowBytes (row : List Pixel) : (rowBytes row).length = 3 * row.length + 1 := by
  simp only [rowBytes, List.length_cons, List.length_flatMap, pixelBytes]
  simp [Nat.mul_comm]

/-- The bytes of a row, one by one (R100). -/
theorem rowBytes_get (row : List Pixel) (k : Nat) (hk : k < 3 * row.length + 1) :
    (rowBytes row)[k]? =
      if k = 0 then some 0#8 else (row[(k - 1) / 3]?).bind fun p => [p.red, p.green, p.blue][(k - 1) % 3]? := by
  cases k with
  | zero => simp [rowBytes, Config.filterType]
  | succ k =>
    simp only [rowBytes, List.getElem?_cons_succ, Nat.add_sub_cancel]
    rw [if_neg (by omega)]
    induction row generalizing k with
    | nil => simp at hk
    | cons p row ih =>
      simp only [List.flatMap_cons, pixelBytes, List.length_cons] at hk ⊢
      by_cases h : k < 3
      · interval_cases k <;> simp
      · obtain ⟨j, rfl⟩ : ∃ j, k = j + 3 := ⟨k - 3, by omega⟩
        have := ih j (by omega)
        rw [show (j + 3) / 3 = j / 3 + 1 by omega, show (j + 3) % 3 = j % 3 by omega]
        simpa using this

/-- What a well-formed grid is (R141). -/
theorem gridWellFormed_iff (g : PixelGrid) :
    gridWellFormed g = true ↔
      g ≠ [] ∧ 1 ≤ gridWidth g ∧ (∀ r ∈ g, r.length = gridWidth g) ∧ g.length < 2 ^ 32 ∧ gridWidth g < 2 ^ 32 := by
  simp [gridWellFormed, and_assoc]

/-! ### The Scanline Packer -/

/-- Pixels that fit into the row join SLB, behind the filter-type byte if they open the row. -/
theorem afterAll_pixels (ps : List Pixel) (s : State) (hm : s.mode = .run) (ha : s.active = true) (hr : s.row ≠ s.height)
    (hc : s.col.toNat + ps.length ≤ s.width.toNat) :
    afterAll (ps.map pixelCommand) s = { s with
      col := s.col + BitVec.ofNat 32 ps.length
      slb := s.slb ++ (if ps = [] then [] else (if s.col = 0#32 then [0#8] else []) ++ ps.flatMap pixelBytes)
      rsp := s.rsp ++ List.replicate ps.length ⟨0#8, []⟩ } := by
  induction ps generalizing s with
  | nil => simp
  | cons p ps ih =>
    simp only [List.length_cons] at hc
    have hw := s.width.isLt
    have hne : s.col ≠ s.width := fun e => by rw [e] at hc; omega
    have e1 : (s.col + 1#32).toNat = s.col.toNat + 1 := by rw [BitVec.toNat_add]; simp; omega
    have hz : s.col + 1#32 ≠ 0#32 := fun e => by rw [e] at e1; simp at e1
    rw [List.map_cons, afterAll_cons, pixelCommand, after_run hm (by simp [firstFault, ha, rowsDone, rowFull, hr, hne]),
      ih _ (by exact hm) (by exact ha) (by exact hr) (by
        simp only [effect, respond_col, pushPixel_col, respond_width, pushPixel_width, e1]; omega)]
    have e2 : s.col + 1#32 + BitVec.ofNat 32 ps.length = s.col + BitVec.ofNat 32 (ps.length + 1) := by
      rw [BitVec.add_assoc, Nat.add_comm ps.length 1, BitVec.ofNat_add]
    simp [effect, respond, pushPixel, emitted, List.replicate_succ, hz, e2, pixelAppend, rowUnopened, Config.filterType]
    cases ps <;> simp

/-- A row of the right length joins SLB packed, and is counted. -/
theorem afterAll_row (ps : List Pixel) (s : State) (hm : s.mode = .run) (ha : s.active = true) (hr : s.row ≠ s.height)
    (hc : s.col = 0#32) (hw : ps.length = s.width.toNat) (hp : ps ≠ []) :
    afterAll (rowCommands ps) s = { s with
      row := s.row + 1#32
      slb := s.slb ++ rowBytes ps
      rsp := s.rsp ++ List.replicate (rowCommands ps).length ⟨0#8, []⟩ } := by
  rw [rowCommands, afterAll_append, afterAll_pixels ps s hm ha hr (by rw [hc, hw]; simp), afterAll_cons, afterAll_nil]
  have e : s.col + BitVec.ofNat 32 ps.length = s.width := by rw [hc, hw]; simp
  rw [after_run (by exact hm) (by simp [firstFault, ha, rowsDone, rowFull, hr, e])]
  simp [effect, respond, closeRow, emitted, rowBytes, hp, hc, Config.filterType, ← List.replicate_append_replicate]

/-- Rows of the right length join SLB packed, top to bottom. -/
theorem afterAll_rows (g : PixelGrid) (s : State) (hm : s.mode = .run) (ha : s.active = true) (hc : s.col = 0#32)
    (hw : ∀ r ∈ g, r.length = s.width.toNat) (hp : 1 ≤ s.width.toNat) (hr : s.row.toNat + g.length ≤ s.height.toNat) :
    afterAll (g.flatMap rowCommands) s = { s with
      row := s.row + BitVec.ofNat 32 g.length
      slb := s.slb ++ pack g
      rsp := s.rsp ++ List.replicate (g.flatMap rowCommands).length ⟨0#8, []⟩ } := by
  induction g generalizing s with
  | nil => simp [pack]
  | cons r g ih =>
    simp only [List.length_cons] at hr
    have hh := s.height.isLt
    have hl := hw r (by simp)
    rw [List.flatMap_cons, afterAll_append, afterAll_row r s hm ha (fun e => by rw [e] at hr; omega) hc hl
      (fun e => by rw [e] at hl; simp at hl; omega)]
    have e1 : (s.row + 1#32).toNat = s.row.toNat + 1 := by rw [BitVec.toNat_add]; simp; omega
    rw [ih]
    · have e2 : s.row + 1#32 + BitVec.ofNat 32 g.length = s.row + BitVec.ofNat 32 (g.length + 1) := by
        rw [BitVec.add_assoc, Nat.add_comm g.length 1, BitVec.ofNat_add]
      simp [e2, pack, ← List.replicate_append_replicate]
    · exact hm
    · exact ha
    · exact hc
    · exact fun x hx => hw x (by simp [hx])
    · exact hp
    · simp only [e1]; omega

/-! ### The Chunk Builder -/

/-- Byte pushes that fit join PB, first byte first. -/
theorem afterAll_pushes (p : List Byte) (s : State) (hm : s.mode = .run) (hc : s.pb.length + p.length ≤ s.cfg.pbCap) :
    afterAll (p.map .chbPushb) s = { s with
      pb := s.pb ++ p
      rsp := s.rsp ++ List.replicate p.length ⟨0#8, []⟩ } := by
  induction p generalizing s with
  | nil => simp
  | cons b p ih =>
    simp only [List.length_cons] at hc
    rw [List.map_cons, afterAll_cons, after_run (i := .chbPushb b) hm (by simp [firstFault, payloadFull]; omega),
      ih _ (by exact hm) (by simp [effect]; omega)]
    simp [effect, respond, pushPayload, emitted, List.replicate_succ]

/-! ### The careful host -/

/-- Commands that leave the CORE in RUN mode were all answered OK, and their data is what the host collected. -/
theorem issue_ok (cs : List Instr) (s : State) (hs : ∀ i ∈ cs, i ≠ .sysRst) (h : (afterAll cs s).mode = .run) :
    ∃ rs, (afterAll cs s).rsp = s.rsp ++ rs ∧ issue cs s = .ok (rs.flatMap Response.data) (afterAll cs s) := by
  induction cs generalizing s with
  | nil => exact ⟨[], by simp, rfl⟩
  | cons i cs ih =>
    have hs' : ∀ j ∈ cs, j ≠ .sysRst := fun j hj => hs j (by simp [hj])
    have hrun := afterAll_run (cs := cs) (s := after i s) h hs'
    obtain ⟨-, -, e⟩ := after_completed hrun
    obtain ⟨rs, h1, h2⟩ := ih (after i s) hs' h
    refine ⟨⟨0#8, emitted i s⟩ :: rs, ?_, ?_⟩
    · rw [afterAll_cons, h1, e]; simp
    · rw [issue_cons_ok e, ← e, h2]; simp

end Sys2Proof.Machine
end

