-- ==== Sys2Proof/Laws/PerInstr.lean ====
section
/-! SUPPORT. Family `EncodingRow`, one lemma per constructor of Instr: the word the encoder writes is its own row's word in the
opcode map of R63, so its opcode is the table's and its reserved bits are zero (R64). -/

namespace Sys2Proof.Laws.EncodingRow

open Sys2Proof.Machine

/-- Some row with the command's mnemonic admits the command's word. -/
def Statement (i : Instr) : Prop :=
  ∃ r ∈ opcodeMap, r.mnemonic = i.mnemonic ∧ r.admits (encode i) = true

/-- A row whose mask has the byte 0xFF over the opcode admits a word by its operand field alone. -/
theorem admits_of_fields {r : OpcodeRow} {o : Byte} {m x : Word} (hp : r.pattern = commandWord o 0#32)
    (hm : r.mask = commandWord 0xFF#8 m) (hx : x &&& m = 0#32) : r.admits (commandWord o x) = true := by
  have ho : o &&& 0xFF#8 = o := BitVec.and_allOnes
  simp [OpcodeRow.admits, hp, hm, commandWord_and, hx, ho]

/-- Format W has no reserved bit. -/
theorem word_unmasked (w : Word) : w &&& 0#32 = 0#32 := BitVec.and_zero

/-- Format N is all zero. -/
theorem zero_masked : 0#32 &&& 0xFFFFFFFF#32 = 0#32 := by decide

/-- Format B has zeros in bits 31:8. -/
theorem byte_masked (b : Byte) : byteOperand b &&& 0xFFFFFF00#32 = 0#32 := by
  have : (0xFFFFFF00#32 : Word) = wordOfBytes 0xFF#8 0xFF#8 0xFF#8 0#8 := by decide
  rw [this, byteOperand, wordOfBytes_and, BitVec.and_zero, BitVec.zero_and]
  decide

/-- Format P has zeros in bits 31:24. -/
theorem pixel_masked (r g b : Byte) : pixelOperand r g b &&& 0xFF000000#32 = 0#32 := by
  have : (0xFF000000#32 : Word) = wordOfBytes 0xFF#8 0#8 0#8 0#8 := by decide
  rw [this, pixelOperand, wordOfBytes_and, BitVec.and_zero, BitVec.and_zero, BitVec.and_zero, BitVec.zero_and]
  decide

theorem bewEnc (w : Word) : Statement (.bewEnc w) :=
  ⟨opcodeMap[0], by decide, rfl, admits_of_fields (by decide) (by decide) (word_unmasked w)⟩

theorem crcInit : Statement .crcInit :=
  ⟨opcodeMap[1], by decide, rfl, admits_of_fields (by decide) (by decide) (zero_masked)⟩

theorem crcUpd (b : Byte) : Statement (.crcUpd b) :=
  ⟨opcodeMap[2], by decide, rfl, admits_of_fields (by decide) (by decide) (byte_masked b)⟩

theorem crcFin : Statement .crcFin :=
  ⟨opcodeMap[3], by decide, rfl, admits_of_fields (by decide) (by decide) (zero_masked)⟩

theorem slpSetw (w : Word) : Statement (.slpSetw w) :=
  ⟨opcodeMap[4], by decide, rfl, admits_of_fields (by decide) (by decide) (word_unmasked w)⟩

theorem slpSeth (h : Word) : Statement (.slpSeth h) :=
  ⟨opcodeMap[5], by decide, rfl, admits_of_fields (by decide) (by decide) (word_unmasked h)⟩

theorem slpBegin : Statement .slpBegin :=
  ⟨opcodeMap[6], by decide, rfl, admits_of_fields (by decide) (by decide) (zero_masked)⟩

theorem slpPix (r g b : Byte) : Statement (.slpPix r g b) :=
  ⟨opcodeMap[7], by decide, rfl, admits_of_fields (by decide) (by decide) (pixel_masked r g b)⟩

theorem slpEor : Statement .slpEor :=
  ⟨opcodeMap[8], by decide, rfl, admits_of_fields (by decide) (by decide) (zero_masked)⟩

theorem slpPack : Statement .slpPack :=
  ⟨opcodeMap[9], by decide, rfl, admits_of_fields (by decide) (by decide) (zero_masked)⟩

theorem chbPushb (b : Byte) : Statement (.chbPushb b) :=
  ⟨opcodeMap[10], by decide, rfl, admits_of_fields (by decide) (by decide) (byte_masked b)⟩

theorem chbPushw (w : Word) : Statement (.chbPushw w) :=
  ⟨opcodeMap[11], by decide, rfl, admits_of_fields (by decide) (by decide) (word_unmasked w)⟩

theorem chbBuild (t : Word) : Statement (.chbBuild t) :=
  ⟨opcodeMap[12], by decide, rfl, admits_of_fields (by decide) (by decide) (word_unmasked t)⟩

theorem sysRst : Statement .sysRst :=
  ⟨opcodeMap[13], by decide, rfl, admits_of_fields (by decide) (by decide) (zero_masked)⟩

end Sys2Proof.Laws.EncodingRow
end

