-- ==== Sys2Proof/Tests/Slice0.lean ====
section
/-! SUPPORT. Tests of single steps on small states, each with its expected result from spec/ (the vector is named), and for
every statement with premises a named witness that meets all of them. -/

namespace Sys2Proof.Tests

open Sys2Proof Sys2Proof.Machine

/-! ### Helpers -/

/-- The next state of a result, if it is one. -/
def nextOf (r : Result) : Option State :=
  match r with
  | .next t => some t
  | .fault _ => none
  | .refused _ => none

/-- The last response of the next state of a result. -/
def reply (r : Result) : Option Response :=
  match r with
  | .next t => t.rsp.getLast?
  | .fault _ => none
  | .refused _ => none

/-- The reset state of a CORE of the smallest legal capacities (R5). -/
def smallest : State := State.resetWith { pbCap := 13, slbCap := 4 }

/-- After `2000000001`, `2100000001`, `2200000000` from reset, the responses left out (F13). -/
def packing : State := { State.reset with width := 1#32, height := 1#32, active := true }

/-- As `packing`, after the pixel (AA, BB, CC) (L1). -/
def pixelIn : State := { packing with col := 1#32, slb := [0x00#8, 0xAA#8, 0xBB#8, 0xCC#8] }

/-- As `pixelIn`, after SLP.EOR (L1). -/
def rowIn : State := { packing with row := 1#32, slb := [0x00#8, 0xAA#8, 0xBB#8, 0xCC#8] }

/-- In FAULT mode after F14. -/
def failed : State :=
  { State.reset with
    width := 2#32, height := 1#32, active := true, col := 1#32, slb := [0x00#8, 0x00#8, 0x00#8, 0x00#8]
    mode := .fault, err := 0x02#8 }

/-- PB_CAP = 14 with 12 bytes in PB (F25). -/
def twelveIn : State :=
  { State.resetWith { pbCap := 14, slbCap := 65536 } with pb := List.replicate 12 0x00#8 }

/-- `s` with the host's next inputs. -/
def given (xs : List HostInput) (s : State) : State := { s with inputs := xs }

/-! ### Decoding: words written out bit by bit from spec/30_encoding.md R60 to R63 -/

/-- BEW (vector B6). -/
theorem test_decode_bew : decode 0b0000000100010010001101000101011001111000#40 = .ok (.bewEnc 0x12345678#32) := by decide

/-- CRC (P1, words 1, 2, 6). -/
theorem test_decode_crc :
    decode 0b0001000000000000000000000000000000000000#40 = .ok .crcInit ∧
    decode 0b0001000100000000000000000000000001001001#40 = .ok (.crcUpd 0x49#8) ∧
    decode 0b0001001000000000000000000000000000000000#40 = .ok .crcFin := by decide

/-- SLP (P3, words 1 to 4, 6, 10). -/
theorem test_decode_slp :
    decode 0b0010000000000000000000000000000000000010#40 = .ok (.slpSetw 2#32) ∧
    decode 0b0010000100000000000000000000000000000010#40 = .ok (.slpSeth 2#32) ∧
    decode 0b0010001000000000000000000000000000000000#40 = .ok .slpBegin ∧
    decode 0b0010001100000000000000010000001000000011#40 = .ok (.slpPix 1#8 2#8 3#8) ∧
    decode 0b0010010000000000000000000000000000000000#40 = .ok .slpEor ∧
    decode 0b0010010100000000000000000000000000000000#40 = .ok .slpPack := by decide

/-- CHB (P2, words 1, 3, 8). -/
theorem test_decode_chb :
    decode 0b0011000100000000000000000000000000001000#40 = .ok (.chbPushw 8#32) ∧
    decode 0b0011000000000000000000000000000000001000#40 = .ok (.chbPushb 8#8) ∧
    decode 0b0011001001001001010010000100010001010010#40 = .ok (.chbBuild 0x49484452#32) := by decide

/-- SYS (E14). -/
theorem test_decode_sys : decode 0b1111000000000000000000000000000000000000#40 = .ok .sysRst := by decide

/-- The neighbours of the opcodes (E13) and the first byte of an opcode only (R46). -/
theorem test_decode_neighbours :
    decode 0x0200000000#40 = .error (.unknownOpcode 0x02#8) ∧ decode 0x0F00000000#40 = .error (.unknownOpcode 0x0F#8) ∧
    decode 0x1300000000#40 = .error (.unknownOpcode 0x13#8) ∧ decode 0x2600000000#40 = .error (.unknownOpcode 0x26#8) ∧
    decode 0x3300000000#40 = .error (.unknownOpcode 0x33#8) ∧ decode 0xEF00000000#40 = .error (.unknownOpcode 0xEF#8) ∧
    decode 0xF100000000#40 = .error (.unknownOpcode 0xF1#8) ∧ decodeBytes [0x11#8] = .error .truncated := by decide

/-- The 5 bytes of a word, in the order sent (R46: "`CRC.UPD 0x49` travels as `11 00 00 00 49`"). -/
theorem test_transport :
    transportBytes (encode (.crcUpd 0x49#8)) = [0x11#8, 0x00#8, 0x00#8, 0x00#8, 0x49#8] ∧
    decodeBytes [0x32#8, 0x49#8, 0x48#8, 0x44#8, 0x52#8, 0x99#8] = .ok (.chbBuild 0x49484452#32, [0x99#8]) := by decide

/-- A table row's word, through the host's two functions. -/
theorem test_table_word :
    decodeTableWord 40 0x1100000000 = some (.crcUpd 0#8) ∧ decodeTableWord 40 0x1100000100 = none ∧
    (nextOf (step (State.reset.withFetchWord 40 0x2000000000))).map (fun t => t.rsp) = some [⟨0x00#8, []⟩] := by decide

/-! ### WellFormed: an ill-formed term for each check -/

theorem test_config_illformed :
    Config.legal { pbCap := 12, slbCap := 4 } = false ∧ Config.legal { pbCap := 4294967296, slbCap := 4 } = false ∧
    Config.legal { pbCap := 13, slbCap := 3 } = false ∧ Config.legal { pbCap := 13, slbCap := 4 } = true ∧
    Config.legal { pbCap := 4294967295, slbCap := 4 } = true := by decide

/-- E3, E4, E5, E7, E11, E12, E17; E18 is legal. -/
theorem test_word_illformed :
    wordLegal 0x1100000100#40 = false ∧ wordLegal 0x1180000000#40 = false ∧ wordLegal 0x1000000001#40 = false ∧
    wordLegal 0x2301000000#40 = false ∧ wordLegal 0x0000000000#40 = false ∧ wordLegal 0xFFFFFFFFFF#40 = false ∧
    wordLegal 0x3000000100#40 = false ∧ wordLegal 0x2000000000#40 = true := by decide

/-- No row, a row of width zero, rows of differing lengths (R100, R109). -/
theorem test_grid_illformed :
    gridWellFormed [] = false ∧ gridWellFormed [[]] = false ∧
    gridWellFormed [[⟨1#8, 2#8, 3#8⟩], []] = false ∧ gridWellFormed [[⟨1#8, 2#8, 3#8⟩], [⟨4#8, 5#8, 6#8⟩]] = true := by decide

/-- A component of 256 or below 0, and where it stands (R151, R163). -/
theorem test_colour_illformed :
    WideColor.inRange ⟨255, 256, 0⟩ = false ∧ WideColor.inRange ⟨0, 0, -1⟩ = false ∧ WideColor.inRange ⟨255, 255, 255⟩ = true ∧
    narrowGrid [[⟨0, 0, 0⟩, ⟨0, 0, 0⟩], [⟨0, 0, 0⟩, ⟨0, 0, 256⟩]] = .error (.colorComponentOutOfRange 1 1) := by decide

/-- A buffer over its capacity is not well formed (R33 items 1 and 6). -/
theorem test_memory_illformed :
    ({ smallest with pb := List.replicate 14 0#8 }).memWf = false ∧ ({ smallest with slb := List.replicate 5 0#8 }).memWf = false ∧
    smallest.memWf = true := by decide

/-! ### The commands -/

/-- B7: bit 31 is not a sign. -/
theorem test_bewEnc : reply (exec (.bewEnc 0x80000000#32) State.reset) = some ⟨0x00#8, [0x80#8, 0x00#8, 0x00#8, 0x00#8]⟩ := by
  decide

/-- V23: CRC.INIT, here over a used accumulator (P1, step 5). -/
theorem test_crcInit :
    (nextOf (exec .crcInit { State.reset with acc := 0x51BD9F7D#32 })).map State.acc = some 0xFFFFFFFF#32 := by decide

/-- K10, K6: the working value is the low 8 bits of `a XOR b`. -/
theorem test_crcUpd :
    (nextOf (exec (.crcUpd 0x49#8) State.reset)).map State.acc = some 0x22FDE946#32 ∧
    crcStep 0x12345678#32 0x9A#8 = 0x4E16B702#32 := by decide

/-- R94: T[49], T[B6]. -/
theorem test_crcTable : crcTable 0x49#8 = 0x0F00F934#32 ∧ crcTable 0xB6#8 = 0x220216B9#32 := by decide

/-- P1, command 6: the checksum of 'IEND', and ACC keeps its value. -/
theorem test_crcFin :
    reply (exec .crcFin { State.reset with acc := 0x51BD9F7D#32 }) = some ⟨0x00#8, [0xAE#8, 0x42#8, 0x60#8, 0x82#8]⟩ ∧
    (nextOf (exec .crcFin { State.reset with acc := 0x51BD9F7D#32 })).map State.acc = some 0x51BD9F7D#32 := by decide

/-- F8: refused while a grid is active, WIDTH kept. -/
theorem test_slpSetw :
    reply (exec (.slpSetw 2#32) packing) = some ⟨0x10#8, []⟩ ∧
    (nextOf (exec (.slpSetw 2#32) packing)).map State.width = some 1#32 ∧
    (nextOf (exec (.slpSetw 8#32) State.reset)).map State.width = some 8#32 := by decide

/-- F12 (the other register) and P3, command 2. -/
theorem test_slpSeth :
    (nextOf (exec (.slpSeth 2#32) State.reset)).map (fun t => (t.width, t.height)) = some (0#32, 2#32) ∧
    reply (exec (.slpSeth 2#32) packing) = some ⟨0x10#8, []⟩ := by decide

/-- F20, F21: a grid of 8 bytes, against 7 and 8. -/
theorem test_slpBegin_capacity :
    reply (exec .slpBegin { State.resetWith ⟨65536, 7⟩ with width := 1#32, height := 2#32 }) = some ⟨0x11#8, []⟩ ∧
    reply (exec .slpBegin { State.resetWith ⟨65536, 8⟩ with width := 1#32, height := 2#32 }) = some ⟨0x00#8, []⟩ := by decide

/-- F22, F12, F9: no wrap-around; zero rows; already active. -/
theorem test_slpBegin_checks :
    reply (exec .slpBegin { State.reset with width := 0xFFFFFFFF#32, height := 0xFFFFFFFF#32 }) = some ⟨0x11#8, []⟩ ∧
    reply (exec .slpBegin { State.reset with width := 1#32 }) = some ⟨0x02#8, []⟩ ∧
    reply (exec .slpBegin packing) = some ⟨0x10#8, []⟩ := by decide

/-- L1: the filter-type byte, then red, green, blue. -/
theorem test_slpPix :
    (nextOf (exec (.slpPix 0xAA#8 0xBB#8 0xCC#8) packing)).map (fun t => (t.slb, t.col)) =
      some ([0x00#8, 0xAA#8, 0xBB#8, 0xCC#8], 1#32) := by decide

/-- F13, F16, F5: row too long; after the last row; idle. -/
theorem test_slpPix_checks :
    reply (exec (.slpPix 0#8 0#8 0#8) pixelIn) = some ⟨0x02#8, []⟩ ∧
    reply (exec (.slpPix 0#8 0#8 0#8) rowIn) = some ⟨0x02#8, []⟩ ∧
    reply (exec (.slpPix 0#8 0#8 0#8) State.reset) = some ⟨0x10#8, []⟩ := by decide

/-- P3, command 6 (as L1): the row is counted, SLB unchanged. -/
theorem test_slpEor :
    (nextOf (exec .slpEor pixelIn)).map (fun t => (t.row, t.col, t.slb)) =
      some (1#32, 0#32, [0x00#8, 0xAA#8, 0xBB#8, 0xCC#8]) := by decide

/-- F15, F17, F6: empty row; after the last row; idle. -/
theorem test_slpEor_checks :
    reply (exec .slpEor packing) = some ⟨0x02#8, []⟩ ∧ reply (exec .slpEor rowIn) = some ⟨0x02#8, []⟩ ∧
    reply (exec .slpEor State.reset) = some ⟨0x10#8, []⟩ := by decide

/-- L1 and L6: the data, and WIDTH and HEIGHT kept. -/
theorem test_slpPack :
    reply (exec .slpPack rowIn) = some ⟨0x00#8, [0x00#8, 0xAA#8, 0xBB#8, 0xCC#8]⟩ ∧
    (nextOf (exec .slpPack rowIn)).map (fun t => (t.active, t.slb, t.row, t.width, t.height)) =
      some (false, [], 0#32, 1#32, 1#32) := by decide

/-- F19, F7: the row not ended; idle. -/
theorem test_slpPack_checks :
    reply (exec .slpPack pixelIn) = some ⟨0x02#8, []⟩ ∧ reply (exec .slpPack State.reset) = some ⟨0x10#8, []⟩ := by decide

/-- F23: the thirteenth byte fits into 13, the fourteenth does not and is not appended. -/
theorem test_chbPushb :
    reply (exec (.chbPushb 1#8) { smallest with pb := List.replicate 12 1#8 }) = some ⟨0x00#8, []⟩ ∧
    reply (exec (.chbPushb 1#8) { smallest with pb := List.replicate 13 1#8 }) = some ⟨0x11#8, []⟩ := by decide

/-- F25: with 2 bytes free, none of the 4 is appended; and P2, command 1. -/
theorem test_chbPushw :
    (nextOf (exec (.chbPushw 2#32) twelveIn)).map (fun t => (t.err, t.pb.length)) = some (0x11#8, 12) ∧
    (nextOf (exec (.chbPushw 8#32) State.reset)).map State.pb = some [0x00#8, 0x00#8, 0x00#8, 0x08#8] := by decide

/-- H1: the end chunk, and the accumulator before the final inversion. -/
theorem test_chbBuild :
    reply (exec (.chbBuild 0x49454E44#32) State.reset) =
      some ⟨0x00#8, [0x00#8, 0x00#8, 0x00#8, 0x00#8, 0x49#8, 0x45#8, 0x4E#8, 0x44#8, 0xAE#8, 0x42#8, 0x60#8, 0x82#8]⟩ ∧
    (nextOf (exec (.chbBuild 0x49454E44#32) State.reset)).map State.acc = some 0x51BD9F7D#32 := by decide +kernel

/-- H10: a tag of the host's own, one payload byte. -/
theorem test_chbBuild_payload :
    reply (exec (.chbBuild 0x74455874#32) { State.reset with pb := [0x41#8] }) =
      some ⟨0x00#8, [0x00#8, 0x00#8, 0x00#8, 0x01#8, 0x74#8, 0x45#8, 0x58#8, 0x74#8, 0x41#8, 0x4E#8, 0x9D#8, 0xAB#8, 0xE1#8]⟩ := by
  decide +kernel

/-- P6, command 13: SYS.RST answers OK in FAULT mode and everything is at its reset value. -/
theorem test_sysRst :
    (nextOf (exec .sysRst failed)) = some { State.reset with rsp := [⟨0x00#8, []⟩] } := by decide

/-! ### The port -/

/-- F1, F4: an illegal word in RUN mode. -/
theorem test_illegal_in_run :
    nextOf (step (given [.word 0x0000000000#40] State.reset)) =
      some { State.reset with mode := .fault, err := 0x01#8, rsp := [⟨0x01#8, []⟩] } ∧
    reply (step (given [.word 0xF000000001#40] State.reset)) = some ⟨0x01#8, []⟩ := by decide

/-- F26: in FAULT mode a legal and an illegal word are refused with the first fault's code. -/
theorem test_refused_in_fault :
    nextOf (step (given [.word 0x0100000005#40] failed)) = some { failed with rsp := [⟨0x02#8, []⟩] } ∧
    nextOf (step (given [.word 0xF000000001#40] failed)) = some { failed with rsp := [⟨0x02#8, []⟩] } := by decide

/-- R190: the reset input, without a response. -/
theorem test_reset_input : nextOf (step (given [.resetInput] failed)) = some State.reset := by decide

/-- The port's protocol broken (U4). -/
theorem test_breach : step (given [.breach .wordChanged] State.reset) = .fault (.portBreach .wordChanged) := rfl

/-- Two COREs: the second moves, the first stays (R177). -/
theorem test_cores :
    (stepNth 1 [.next State.reset, .next (given [.word 0x3000000007#40] State.reset)]).map (fun r => (nextOf r).map State.pb) =
      [some [], some [0x07#8]] := by decide

/-- A CORE whose port's protocol is broken is stuck, and the other goes on (R177, U4). -/
theorem test_cores_breach :
    (stepBoth 0 1 [.next (given [.breach .wordChanged] State.reset), .next (given [.word 0x3000000007#40] State.reset)]).map
      (fun r => (nextOf r).map State.pb) = [none, some [0x07#8]] := by decide

/-! ### The host's side -/

/-- R69: CRC.OF with no bytes; PNG.IHDR 8, 1 is P2. -/
theorem test_expand :
    (expand (.crcOf [])).map encode = [0x1000000000#40, 0x1200000000#40] ∧
    (expand (.pngIhdr 8#32 1#32)).map encode =
      [0x3100000008#40, 0x3100000001#40, 0x3000000008#40, 0x3000000002#40, 0x3000000000#40, 0x3000000000#40, 0x3000000000#40,
        0x3249484452#40] := by decide

/-- R68: a tag literal, a decimal and a comment; an operand too wide. -/
theorem test_assemble :
    assembleLine (mnemonicChars (.chbBuild 0#32) ++ [' ', '\'', 'I', 'E', 'N', 'D', '\'', ' ', ';', 'x']) =
      .ok [0x3249454E44#40] ∧
    assembleLine (mnemonicChars (.crcUpd 0#8) ++ [' ', '2', '5', '6']) = .error .operandTooWide := by decide

/-- R71: E8 and an illegal word, as disassembly prints them. -/
theorem test_disassemble :
    disassemble 0x2300FF0000#40 = mnemonicChars (.slpPix 0#8 0#8 0#8) ++ [' ', '2', '5', '5', ',', ' ', '0', ',', ' ', '0'] ∧
    disassemble 0xF000000001#40 =
      illegalChars ++ [' ', '0', 'x', 'F', '0', '0', '0', '0', '0', '0', '0', '0', '1'] := by decide

/-! ### Witnesses: states that meet the premises of the statements

Each theorem is named for the statement whose premises it meets. -/

/-- The reset state meets the invariants, and so does any legal CORE at its bounds (R5). -/
theorem resetWith_inv (cfg : Config) (h : cfg.legal = true) : (State.resetWith cfg).Inv where
  capacities := h
  payload := Nat.zero_le _
  modeErr := by simp [State.resetWith]
  rest := fun _ => ⟨rfl, rfl, rfl⟩
  work := fun h => by cases h

theorem reset_inv : State.reset.Inv := resetWith_inv _ (by decide)

theorem smallest_inv : smallest.Inv := resetWith_inv _ (by decide)

/-- A CORE with a grid of one pixel, before the pixel, after it, and after the row. -/
theorem packing_inv : packing.Inv where
  capacities := by decide
  payload := by decide
  modeErr := by decide
  rest := fun h => by cases h
  work := fun _ => ⟨by decide, by decide, by decide, by decide, by decide, by decide, by decide⟩

theorem pixelIn_inv : pixelIn.Inv where
  capacities := by decide
  payload := by decide
  modeErr := by decide
  rest := fun h => by cases h
  work := fun _ => ⟨by decide, by decide, by decide, by decide, by decide, by decide, by decide⟩

theorem rowIn_inv : rowIn.Inv where
  capacities := by decide
  payload := by decide
  modeErr := by decide
  rest := fun h => by cases h
  work := fun _ => ⟨by decide, by decide, by decide, by decide, by decide, by decide, by decide⟩

theorem failed_inv : failed.Inv where
  capacities := by decide
  payload := by decide
  modeErr := by decide
  rest := fun h => by cases h
  work := fun _ => ⟨by decide, by decide, by decide, by decide, by decide, by decide, by decide⟩

/-- The invariants do not look at the host's inputs. -/
theorem given_inv {s : State} (h : s.Inv) (xs : List HostInput) : (given xs s).Inv where
  capacities := h.capacities
  payload := h.payload
  modeErr := h.modeErr
  rest := fun ha => ⟨(h.rest ha).row, (h.rest ha).col, (h.rest ha).slb⟩
  work := fun ha =>
    let w := h.work ha
    ⟨w.width, w.height, w.row, w.col, w.fits, w.lastRow, w.length⟩

/-- The packed rows so far in the states of L1. -/
theorem pixelIn_gridInv : pixelIn.GridInv := fun _ =>
  ⟨by decide, by decide, by decide, [], [⟨0xAA#8, 0xBB#8, 0xCC#8⟩], by decide, by simp, by decide, by decide⟩

theorem rowIn_gridInv : rowIn.GridInv := fun _ =>
  ⟨by decide, by decide, by decide, [[⟨0xAA#8, 0xBB#8, 0xCC#8⟩]], [], by decide, by simp [rowIn, packing], by decide, by decide⟩

theorem witness_EveryCommandHasOneWord : decode 0x2300FF0A0B#40 = .ok (.slpPix 0xFF#8 0x0A#8 0x0B#8) := by decide

theorem witness_DecoderMeetsOpcodeMap :
    (⟨"SYS.RST", .n, 0xF000000000#40, 0xFFFFFFFFFF#40⟩ : OpcodeRow) ∈ opcodeMap ∧
    0xF000000000#40 &&& 0xFFFFFFFFFF#40 = 0xF000000000#40 := by decide

theorem witness_UnmatchedWordsAreIllegal :
    decode 0x1100000100#40 = .error (.reservedBitSet 0x11#8) ∧ (given [.word 0x1100000100#40] State.reset).mode = .run ∧
    (given [.word 0x1100000100#40] State.reset).inputs = .word 0x1100000100#40 :: [] := by decide

theorem witness_StepRunsDecodedCommand :
    (given [.word 0x1000000000#40, .resetInput] State.reset).inputs = .word 0x1000000000#40 :: [.resetInput] ∧
    decode 0x1000000000#40 = .ok .crcInit := by decide

theorem witness_PortWithoutWord :
    (given [.resetInput] failed).inputs = .resetInput :: [] ∧
    (given [.breach .responseNotTaken] failed).inputs = .breach .responseNotTaken :: [] ∧ State.reset.inputs = [] := by decide

theorem witness_ResetDuringCommand :
    (given [.resetDuring 0x1200000000#40] State.reset).inputs = .resetDuring 0x1200000000#40 :: [] ∧
    ∃ full, step { given [.resetDuring 0x1200000000#40] State.reset with inputs := .word 0x1200000000#40 :: [] } = .next full :=
  ⟨rfl, _, rfl⟩

theorem witness_EveryWordCompletes :
    (given [.word 0xFFFFFFFFFF#40] failed).inputs = .word 0xFFFFFFFFFF#40 :: [] := by decide

/-- A response that is OK and one that is not. -/
theorem witness_OneSoundResponsePerWord :
    (given [.word 0x2500000000#40] rowIn).Inv ∧
    (∃ t, step (given [.word 0x2500000000#40] rowIn) = .next t ∧ t.mode = .run) ∧
    (given [.word 0x2500000000#40] pixelIn).Inv ∧
    (∃ t, step (given [.word 0x2500000000#40] pixelIn) = .next t ∧ t.mode = .fault) ∧
    decode 0x2500000000#40 = .ok .slpPack :=
  ⟨given_inv rowIn_inv _, ⟨_, rfl, rfl⟩, given_inv pixelIn_inv _, ⟨_, rfl, rfl⟩, by decide⟩

theorem witness_WordsReadOnlyItems :
    SameItems pixelIn { pixelIn with rsp := [⟨0x00#8, []⟩], inputs := [.resetInput], freeUses := 7 } ∧
    ({ pixelIn with rsp := [⟨0x00#8, []⟩], inputs := [.resetInput], freeUses := 7 } : State).cfg = pixelIn.cfg :=
  ⟨⟨rfl, rfl, rfl, rfl, rfl, rfl, rfl, rfl, rfl, rfl⟩, rfl⟩

theorem witness_StepKeepsConfigAndLog : ∃ t, step (given [.word 0x2500000000#40] rowIn) = .next t := ⟨_, rfl⟩

/-- A fault of a command and a fault of an illegal word. -/
theorem witness_FaultEntryDiscardsAllWrites :
    (pixelIn.mode = .run ∧ ∃ t, executeWord 0x2500000000#40 pixelIn = .next t ∧ t.mode = .fault) ∧
    (State.reset.mode = .run ∧ ∃ t, executeWord 0x0000000000#40 State.reset = .next t ∧ t.mode = .fault) :=
  ⟨⟨rfl, _, rfl, rfl⟩, rfl, _, rfl, rfl⟩

theorem witness_FaultModeRefusesEveryWord :
    (given [.word 0xF000000001#40] failed).mode = .fault ∧
    (given [.word 0xF000000001#40] failed).inputs = .word 0xF000000001#40 :: [] ∧
    decode 0xF000000001#40 ≠ .ok .sysRst ∧
    (∀ c ∈ [0x2300010101#40, 0x2500000000#40, 0xF000000001#40], decode c ≠ .ok .sysRst) :=
  ⟨by decide, by decide, by decide, by
    intro c hc
    simp only [List.mem_cons, List.not_mem_nil, or_false] at hc
    rcases hc with rfl | rfl | rfl <;> decide⟩

theorem witness_FaultModeRefusesEveryWord_invariant : failed.Inv ∧ failed.mode = .fault := ⟨failed_inv, rfl⟩

/-- The three ways out of FAULT mode. -/
theorem witness_OnlyResetLeavesFaultMode :
    (∃ t, step (given [.word 0xF000000000#40] failed) = .next t ∧ t.mode = .run) ∧
    (∃ t, step (given [.resetInput] failed) = .next t ∧ t.mode = .run) ∧
    (∃ t, step (given [.resetDuring 0x1000000000#40] failed) = .next t ∧ t.mode = .run) :=
  ⟨⟨_, rfl, rfl⟩, ⟨_, rfl, rfl⟩, ⟨_, rfl, by simp [given, failed, cutShort, resetCore, resetItems, countFreeUse, setInputs]⟩⟩

/-- R164: each clause, and a state where none applies. -/
theorem witness_ProtocolFaultCases :
    packing.mode = .run ∧ packing.active = true ∧ State.reset.mode = .run ∧ State.reset.active = false := by decide

/-- R162: each clause. -/
theorem witness_MalformedInputFaultCases :
    State.reset.active = false ∧ State.reset.width = 0#32 ∧
    pixelIn.active = true ∧ pixelIn.col = pixelIn.width ∧ pixelIn.row ≠ pixelIn.height ∧ pixelIn.col ≠ 0#32 ∧
    packing.col ≠ packing.width ∧ rowIn.row = rowIn.height ∧ rowIn.col = 0#32 := by decide

/-- R165: each clause at its boundary (F20, F21, F23, F25). -/
theorem witness_CapacityFaultCases :
    (2#32).toNat * (3 * (1#32).toNat + 1) > (State.resetWith ⟨65536, 7⟩).cfg.slbCap ∧
    ¬(2#32).toNat * (3 * (1#32).toNat + 1) > (State.resetWith ⟨65536, 8⟩).cfg.slbCap ∧
    (List.replicate 13 1#8).length + 1 > smallest.cfg.pbCap ∧ ¬(List.replicate 12 1#8).length + 1 > smallest.cfg.pbCap ∧
    twelveIn.pb.length + 4 > twelveIn.cfg.pbCap ∧ ¬(twelveIn.pb.drop 2).length + 4 > twelveIn.cfg.pbCap := by decide

theorem witness_ResetMeetsInvariants :
    Config.legal { pbCap := 13, slbCap := 4 } = true ∧ Config.legal { pbCap := 4294967295, slbCap := 4 } = true := by decide

theorem witness_StepKeepsInv :
    (given [.word 0x2300AABBCC#40] packing).Inv ∧ ∃ t, step (given [.word 0x2300AABBCC#40] packing) = .next t :=
  ⟨given_inv packing_inv _, _, rfl⟩

theorem witness_ReachableStatesMeetInv :
    Config.legal { pbCap := 13, slbCap := 4 } = true ∧
    ∃ t, runSteps 1 { State.resetWith { pbCap := 13, slbCap := 4 } with inputs := [.word 0x3000000001#40] } = .next t :=
  ⟨by decide, _, rfl⟩

theorem witness_StepKeepsCodesSound :
    (given [.word 0x0000000000#40] State.reset).codesSound = true ∧
    (∀ c rest, (given [.word 0x0000000000#40] State.reset).inputs ≠ .resetDuring c :: rest) ∧
    ∃ t, step (given [.word 0x0000000000#40] State.reset) = .next t :=
  ⟨by decide, by intro c rest h; simp [given] at h, _, rfl⟩

theorem witness_StepKeepsGridInv :
    (given [.word 0x2400000000#40] pixelIn).GridInv ∧ ∃ t, step (given [.word 0x2400000000#40] pixelIn) = .next t ∧ t.active = true :=
  ⟨fun _ => ⟨by decide, by decide, by decide, [], [⟨0xAA#8, 0xBB#8, 0xCC#8⟩], by decide, by simp, by decide, by decide⟩, _, rfl, rfl⟩

theorem witness_CountersNeverWrap :
    packing.Inv ∧ packing.mode = .run ∧ (∃ t, exec (.slpPix 1#8 2#8 3#8) packing = .next t ∧ t.mode = .run) ∧
    pixelIn.Inv ∧ pixelIn.mode = .run ∧ (∃ t, exec .slpEor pixelIn = .next t ∧ t.mode = .run) :=
  ⟨packing_inv, rfl, ⟨_, rfl, rfl⟩, pixelIn_inv, rfl, _, rfl, rfl⟩

/-- BewEncEmitsBigEndian, CrcCommandsAnswer, SetDimensions, BuildEmitsChunk, BuildOverwritesStream. -/
theorem witness_run_mode : State.reset.mode = .run ∧ State.reset.active = false ∧ packing.mode = .run ∧ packing.active = true := by
  decide

theorem witness_BewIsInjective : bew 0x12345678#32 = [0x12#8, 0x34#8, 0x56#8, 0x78#8] := by decide

/-- BeginStartsGrid: a state for each branch, the last one at the capacity (F21). -/
theorem witness_BeginStartsGrid :
    packing.active = true ∧ State.reset.width = 0#32 ∧
    reply (exec .slpBegin { State.resetWith ⟨13, 7⟩ with width := 1#32, height := 2#32 }) = some ⟨0x11#8, []⟩ ∧
    reply (exec .slpBegin { State.resetWith ⟨13, 4⟩ with width := 1#32, height := 1#32 }) = some ⟨0x00#8, []⟩ := by decide

/-- PixelIsAppended, EndOfRowCounts, PackEmitsBuffer: a state for each branch. -/
theorem witness_packer_branches :
    State.reset.active = false ∧ rowIn.row = rowIn.height ∧ pixelIn.col = pixelIn.width ∧
    packing.active = true ∧ packing.row ≠ packing.height ∧ packing.col ≠ packing.width ∧ rowIn.col = 0#32 := by decide

/-- PackEmitsBuffer, the length of the data. -/
theorem witness_PackEmitsBuffer_length :
    rowIn.Inv ∧ rowIn.active = true ∧ rowIn.row = rowIn.height ∧ rowIn.col = 0#32 := ⟨rowIn_inv, rfl, rfl, rfl⟩

/-- PushesAppend: each branch at its boundary. -/
theorem witness_PushesAppend :
    payloadFull 1 { smallest with pb := List.replicate 12 1#8 } = false ∧ payloadFull 1 { smallest with pb := List.replicate 13 1#8 } = true ∧
    payloadFull 4 { smallest with pb := List.replicate 9 1#8 } = false ∧ payloadFull 4 { smallest with pb := List.replicate 10 1#8 } = true := by
  decide

theorem witness_ResetsAreIndistinguishable :
    (∃ t, step { failed with inputs := .word 0xF000000000#40 :: [.word 0x0100000005#40] } = .next t ∧ ∃ t', runSteps 1 t = .next t') ∧
    (∃ u, step { failed with inputs := .resetInput :: [.word 0x0100000005#40] } = .next u) :=
  ⟨⟨_, rfl, _, rfl⟩, _, rfl⟩

/-- A stream of bytes with BEW.ENC and CHB.PUSHB between them (V24). -/
theorem witness_CrcStreamIsChecksum :
    (∃ t, execAll [.crcUpd 0x49#8, .bewEnc 0x12345678#32, .chbPushb 0x07#8, .crcUpd 0x45#8] State.reset = .next t ∧ t.mode = .run) ∧
    (∀ i ∈ [Instr.crcUpd 0x49#8, .bewEnc 0x12345678#32, .chbPushb 0x07#8, .crcUpd 0x45#8], i ≠ .crcInit ∧ i ≠ .sysRst ∧ ∀ tag, i ≠ .chbBuild tag) :=
  ⟨⟨_, rfl, rfl⟩, by simp⟩

/-- P7. -/
theorem witness_BuildOverwritesStream :
    ∃ t, execAll ([.chbBuild 0x49454E44#32] ++ [0x4E#8, 0x44#8].map .crcUpd ++ [.crcFin]) State.reset = .next t := ⟨_, rfl⟩

/-- The grid of L2. -/
def gridL2 : PixelGrid := [[⟨1#8, 2#8, 3#8⟩, ⟨4#8, 5#8, 6#8⟩], [⟨7#8, 8#8, 9#8⟩, ⟨10#8, 11#8, 12#8⟩]]

theorem witness_PackLayout :
    gridWellFormed gridL2 = true ∧ gridL2[1]? = some [⟨7#8, 8#8, 9#8⟩, ⟨10#8, 11#8, 12#8⟩] ∧ 6 < 3 * gridWidth gridL2 + 1 := by decide

/-- L2: the packed form. -/
theorem test_pack :
    pack gridL2 = [0#8, 1#8, 2#8, 3#8, 4#8, 5#8, 6#8, 0#8, 7#8, 8#8, 9#8, 10#8, 11#8, 12#8] := by decide

/-- The smallest grid in the smallest CORE: 4 bytes into 4. -/
theorem witness_CanonicalGridPacks :
    gridWellFormed [[⟨1#8, 2#8, 3#8⟩]] = true ∧
    packedSize (widthWord [[⟨1#8, 2#8, 3#8⟩]]) (heightWord [[⟨1#8, 2#8, 3#8⟩]]) ≤ smallest.cfg.slbCap ∧
    smallest.mode = .run ∧ smallest.active = false := by decide

/-- The commands of the same grid with BEW, CRC and CHB commands between. -/
def interleaved : List Instr :=
  [.bewEnc 1#32, .slpSetw 1#32, .slpSeth 1#32, .crcInit, .slpBegin, .slpPix 1#8 2#8 3#8, .chbPushb 9#8, .slpEor, .crcFin,
    .slpPack, .chbBuild 0#32]

theorem witness_GridPacksUnderInterleaving :
    interleaved.filter (fun i => i.unit == .slp) = packCommands [[⟨1#8, 2#8, 3#8⟩]] ∧ (∀ i ∈ interleaved, i.unit ≠ .sys) ∧
    ∃ t, execAll interleaved smallest = .next t ∧ t.mode = .run :=
  ⟨by decide, by decide, _, rfl, rfl⟩

theorem witness_PackEmitsOnlyGrids :
    rowIn.Inv ∧ rowIn.GridInv ∧ rowIn.mode = .run ∧ (∃ t, exec .slpPack rowIn = .next t ∧ t.mode = .run) ∧
    (Instr.slpEor.unit = .slp ∧ Instr.slpEor ≠ .slpPack ∧ ∃ t, exec .slpEor pixelIn = .next t) :=
  ⟨rowIn_inv, rowIn_gridInv, rfl, ⟨_, rfl, rfl⟩, rfl, by decide, _, rfl⟩

/-- No byte, and one byte (the upper bound of R5 is a payload of `2^32 - 1` bytes). -/
theorem witness_ChunkLayout : ([] : List Byte).length ≤ 2 ^ 32 - 1 ∧ [0x41#8].length ≤ 2 ^ 32 - 1 := by decide

theorem witness_EveryBuiltChunkIsSound :
    smallest.Inv ∧ smallest.mode = .run ∧ ∃ u, exec (.chbBuild 0x49454E44#32) smallest = .next u := ⟨smallest_inv, rfl, _, rfl⟩

/-- Exactly 4 bytes free. -/
theorem witness_WordPushIsFourBytePushes :
    smallest.mode = .run ∧ ({ smallest with pb := List.replicate 9 0#8 } : State).pb.length + 4 ≤ smallest.cfg.pbCap := by decide

/-- 13 bytes into 13. -/
theorem witness_CanonicalPayloadBuilds :
    smallest.mode = .run ∧ smallest.pb.length + (List.replicate 13 0#8).length ≤ smallest.cfg.pbCap := by decide

/-- A completed command, a faulting one and a refused one. -/
theorem witness_OnlyListedCommandsWrite :
    (∃ t, exec .slpEor pixelIn = .next t) ∧ (∃ t, exec .slpEor rowIn = .next t) ∧ (∃ t, exec .slpEor failed = .next t) :=
  ⟨⟨_, rfl⟩, ⟨_, rfl⟩, _, rfl⟩

theorem witness_OnlyListedCommandsRead :
    readsItem .crcInit .acc = false ∧ (∃ t, exec .crcInit State.reset = .next t) ∧
    ∃ t', exec .crcInit (withItemOf .acc State.reset { State.reset with acc := 5#32 }) = .next t' := ⟨rfl, ⟨_, rfl⟩, _, rfl⟩

theorem witness_IdleForgetsThePast : smallest.Inv ∧ idle smallest = true := ⟨smallest_inv, by decide⟩

theorem witness_CoresShareNothing :
    [Host.Outcome.next (given [.breach .wordChanged] State.reset), .next smallest][0]? =
      some (Host.Outcome.next (given [.breach .wordChanged] State.reset) : Result) ∧ (0 : Nat) ≠ 1 ∧
    [Host.Outcome.next (given [.breach .wordChanged] State.reset), .next smallest][1]? =
      some (Host.Outcome.next smallest : Result) ∧ [0, 1, 0].count 0 = 2 := ⟨rfl, by decide, rfl, by decide⟩

theorem witness_ImageLayout : ([] : List Byte).length ≤ 2 ^ 32 - 1 := by decide

/-- The identity compressor of DOC00 section 9 note 3, as vector P4 uses it, in the smallest CORE. -/
theorem witness_CanonicalSequenceMakesImage :
    smallest.cfg.legal = true ∧ gridWellFormed [[⟨1#8, 2#8, 3#8⟩]] = true ∧
    packedSize (widthWord [[⟨1#8, 2#8, 3#8⟩]]) (heightWord [[⟨1#8, 2#8, 3#8⟩]]) ≤ smallest.cfg.slbCap ∧
    (fun bs => some bs : List Byte → Option (List Byte)) (pack [[⟨1#8, 2#8, 3#8⟩]]) = some [0#8, 1#8, 2#8, 3#8] ∧
    [0#8, 1#8, 2#8, 3#8].length ≤ smallest.cfg.pbCap := by decide

/-- A zero-width grid of more rows than SLB_CAP (its declared size alone is above 4). -/
theorem witness_MalformedGridGivesNoImage_zeroWidth :
    gridWellFormed (List.replicate 5 []) = false ∧ gridWidth (List.replicate 5 []) = 0 ∧
    ¬packedSize (widthWord (List.replicate 5 [])) (heightWord (List.replicate 5 [])) ≤ smallest.cfg.slbCap := by decide

/-- No row; a row of width zero; a ragged grid. -/
theorem witness_MalformedGridGivesNoImage :
    ∀ g ∈ [[], [[]], [[⟨1#8, 2#8, 3#8⟩], [⟨1#8, 2#8, 3#8⟩, ⟨4#8, 5#8, 6#8⟩]]],
      gridWellFormed g = false ∧ g.length < 2 ^ 32 ∧ gridWidth g < 2 ^ 32 ∧
      (gridWidth g = 0 ∨ packedSize (widthWord g) (heightWord g) ≤ State.reset.cfg.slbCap) := by decide

/-- A grid of components up to 255, and the first bad component below 0 and above 255. -/
theorem witness_WideComponentsAreReported :
    (∀ row ∈ [[(⟨255, 0, 255⟩ : WideColor)], []], ∀ x ∈ row, x.inRange = true) ∧
    narrowGrid [[⟨255, 0, 255⟩, ⟨0, -1, 0⟩], [⟨256, 0, 0⟩]] = .error (.colorComponentOutOfRange 0 1) := by decide

end Sys2Proof.Tests
end

section
/-! PROOFS. Family `10_state`: the invariants of R33, what a command reads and writes (the table of R22), and words as the
commands they are (R21, R66, R67). -/

namespace Sys2Proof.Machine

/-! ### Arithmetic of the packer -/

/-- A 32-bit counter below a 32-bit bound counts without wrapping (R33, R181). -/
theorem toNat_succ_of_lt {a b : Word} (h : a.toNat < b.toNat) : (a + 1#32).toNat = a.toNat + 1 := by
  bv_omega

/-- A counter within its bound and not at it is below it. -/
theorem toNat_lt_of_le_of_ne {a b : Word} (h : a.toNat ≤ b.toNat) (hne : a ≠ b) : a.toNat < b.toNat :=
  lt_of_le_of_ne h fun e => hne (BitVec.eq_of_toNat_eq e)

/-- The first pixel of a row adds the filter-type byte and 3 bytes, every other pixel 3 bytes (R105). -/
theorem length_pixelAppend (r g b : Byte) (s : State) :
    (pixelAppend r g b s).length = (if s.col = 0#32 then 1 else 0) + 3 := by
  by_cases h : s.col = 0#32 <;> simp [pixelAppend, rowUnopened, pixelBytes, h]

/-- The open row after one more pixel (R33 item 5). -/
theorem openRowBytes_succ {a b : Word} (h : a.toNat < b.toNat) :
    openRowBytes (a + 1#32) = openRowBytes a + ((if a = 0#32 then 1 else 0) + 3) := by
  have hs := toNat_succ_of_lt h
  have hne : a + 1#32 ≠ 0#32 := fun e => by rw [e] at hs; simp at hs
  by_cases ha : a = 0#32
  · subst ha; simp [openRowBytes]
  · simp only [openRowBytes, hne, ha, if_false, hs]; omega

/-- A row that is full and not empty has 1 + 3 * WIDTH bytes. -/
theorem openRowBytes_full {a : Word} (h : 1 ≤ a.toNat) : openRowBytes a = 3 * a.toNat + 1 := by
  have hne : a ≠ 0#32 := fun e => by rw [e] at h; simp at h
  simp only [openRowBytes, hne, if_false]; omega

/-- An open row has at most the bytes of a full one. -/
theorem openRowBytes_le {a b : Word} (h : a.toNat ≤ b.toNat) : openRowBytes a ≤ 3 * b.toNat + 1 := by
  unfold openRowBytes
  split <;> omega

/-! ### The packer at work (R33 items 4 and 5) -/

/-- SLP.BEGIN's checks are what a grid at its start needs (R104). -/
theorem PackerAtWork.begin {s : State} (hd : dimensionZero s = false) (hf : gridTooLarge s = false) :
    PackerAtWork (setGrid true s) := by
  simp only [dimensionZero, Bool.or_eq_false_iff, beq_eq_false_iff_ne] at hd
  obtain ⟨hw, hh⟩ := hd
  have hw : 1 ≤ s.width.toNat := by bv_omega
  have hh : 1 ≤ s.height.toNat := by bv_omega
  refine ⟨hw, hh, by simp, by simp, ?_, fun _ => rfl, by simp [openRowBytes]⟩
  simpa [gridTooLarge] using hf

/-- A pixel where the row is not full keeps the packer's invariants (R105). -/
theorem PackerAtWork.pushPixel {s : State} (h : PackerAtWork s) (hr : s.row ≠ s.height) (hc : s.col ≠ s.width)
    (r g b : Byte) : PackerAtWork (pushPixel (pixelAppend r g b s) s) := by
  have hlt := toNat_lt_of_le_of_ne h.col hc
  refine ⟨h.width, h.height, h.row, ?_, h.fits, fun e => absurd e hr, ?_⟩
  · simp only [pushPixel_col, pushPixel_width, toNat_succ_of_lt hlt]; exact hlt
  · simp only [pushPixel_slb, pushPixel_row, pushPixel_width, pushPixel_col, length_memAppend, length_pixelAppend,
      openRowBytes_succ hlt, h.length]
    omega

/-- Closing a full row keeps the packer's invariants (R106). -/
theorem PackerAtWork.closeRow {s : State} (h : PackerAtWork s) (hr : s.row ≠ s.height) (hc : s.col = s.width) :
    PackerAtWork (closeRow s) := by
  have hlt := toNat_lt_of_le_of_ne h.row hr
  have hlen := h.length
  rw [hc, openRowBytes_full h.width] at hlen
  refine ⟨h.width, h.height, ?_, by simp, h.fits, fun _ => rfl, ?_⟩
  · simp only [closeRow_row, closeRow_height, toNat_succ_of_lt hlt]; exact hlt
  · simp only [closeRow_slb, closeRow_row, closeRow_width, closeRow_col, toNat_succ_of_lt hlt, hlen, Nat.succ_mul]
    simp [openRowBytes]

/-- The rows so far never hold more than the whole grid. -/
theorem PackerAtWork.slb_le {s : State} (h : PackerAtWork s) : s.slb.length ≤ s.cfg.slbCap := by
  refine le_trans ?_ h.fits
  rw [h.length, packedSize]
  by_cases hr : s.row = s.height
  · simp [h.lastRow hr, hr, openRowBytes]
  · calc s.row.toNat * (3 * s.width.toNat + 1) + openRowBytes s.col
        ≤ s.row.toNat * (3 * s.width.toNat + 1) + (3 * s.width.toNat + 1) := Nat.add_le_add_left (openRowBytes_le h.col) _
      _ = (s.row.toNat + 1) * (3 * s.width.toNat + 1) := (Nat.succ_mul _ _).symm
      _ ≤ s.height.toNat * (3 * s.width.toNat + 1) := Nat.mul_le_mul_right _ (toNat_lt_of_le_of_ne h.row hr)

/-! ### The invariants of R33, update by update -/

/-- SLB is within SLB_CAP (R33 item 6). -/
theorem State.Inv.slb_le {s : State} (h : s.Inv) : s.slb.length ≤ s.cfg.slbCap := by
  cases ha : s.active with
  | false => simp [(h.rest ha).slb]
  | true => exact (h.work ha).slb_le

/-- The invariants read the packer, the parameters, the length of PB, MODE and ERR, and nothing else. -/
theorem State.Inv.of_samePacker {s t : State} (h : s.Inv) (hp : SamePacker s t) (hc : t.cfg = s.cfg)
    (hb : t.pb.length ≤ t.cfg.pbCap) (hm : t.mode = .run ↔ t.err = 0x00#8) : t.Inv where
  capacities := hc ▸ h.capacities
  payload := hb
  modeErr := hm
  rest ha := by
    obtain ⟨hrow, hcol, hslb⟩ := h.rest (hp.active ▸ ha)
    exact ⟨hp.row.trans hrow, hp.col.trans hcol, hp.slb.trans hslb⟩
  work ha := by
    obtain ⟨hw, hh, hrow, hcol, hfits, hlast, hlen⟩ := h.work (hp.active ▸ ha)
    constructor <;> simpa only [hp.width, hp.height, hp.row, hp.col, hp.slb, hc]

theorem State.Inv.respond {s : State} (h : s.Inv) (c : Byte) (d : List Byte) : (respond c d s).Inv :=
  h.of_samePacker ⟨rfl, rfl, rfl, rfl, rfl, rfl⟩ rfl h.payload h.modeErr

theorem State.Inv.setInputs {s : State} (h : s.Inv) (xs : List HostInput) : (setInputs xs s).Inv :=
  h.of_samePacker ⟨rfl, rfl, rfl, rfl, rfl, rfl⟩ rfl h.payload h.modeErr

theorem State.Inv.setAcc {s : State} (h : s.Inv) (v : Word) : (setAcc v s).Inv :=
  h.of_samePacker ⟨rfl, rfl, rfl, rfl, rfl, rfl⟩ rfl h.payload h.modeErr

theorem State.Inv.clearPayload {s : State} (h : s.Inv) : (clearPayload s).Inv :=
  h.of_samePacker ⟨rfl, rfl, rfl, rfl, rfl, rfl⟩ rfl (Nat.zero_le _) h.modeErr

theorem State.Inv.pushPayload {s : State} (h : s.Inv) {bs : List Byte} (hf : payloadFull bs.length s = false) :
    (pushPayload bs s).Inv :=
  h.of_samePacker ⟨rfl, rfl, rfl, rfl, rfl, rfl⟩ rfl (by simpa [payloadFull] using hf) h.modeErr

/-- A fault writes MODE and ERR together (R167). -/
theorem State.Inv.setFault {s : State} (h : s.Inv) {c : Byte} (hc : c ≠ 0x00#8) : (setFault c s).Inv :=
  h.of_samePacker ⟨rfl, rfl, rfl, rfl, rfl, rfl⟩ rfl h.payload (by simp [hc])

/-- The dimensions are free while no grid is being packed (R102). -/
theorem State.Inv.setWidth {s : State} (h : s.Inv) (ha : s.active = false) (w : Word) : (setWidth w s).Inv :=
  ⟨h.capacities, h.payload, h.modeErr, fun _ => ⟨(h.rest ha).row, (h.rest ha).col, (h.rest ha).slb⟩,
    fun hw => by simp [ha] at hw⟩

/-- The dimensions are free while no grid is being packed (R103). -/
theorem State.Inv.setHeight {s : State} (h : s.Inv) (ha : s.active = false) (w : Word) : (setHeight w s).Inv :=
  ⟨h.capacities, h.payload, h.modeErr, fun _ => ⟨(h.rest ha).row, (h.rest ha).col, (h.rest ha).slb⟩,
    fun hw => by simp [ha] at hw⟩

/-- The end of a grid leaves the packer at rest (R107). -/
theorem State.Inv.endGrid {s : State} (h : s.Inv) : (setGrid false s).Inv :=
  ⟨h.capacities, h.payload, h.modeErr, fun _ => ⟨rfl, rfl, rfl⟩, fun hw => by cases hw⟩

/-- An update that leaves a packer at work and touches neither PB nor MODE, ERR and the parameters. -/
theorem State.Inv.of_work {s t : State} (h : s.Inv) (hw : PackerAtWork t) (ha : t.active = true) (hc : t.cfg = s.cfg)
    (hb : t.pb = s.pb) (hm : t.mode = s.mode) (he : t.err = s.err) : t.Inv where
  capacities := hc ▸ h.capacities
  payload := by rw [hb, hc]; exact h.payload
  modeErr := by rw [hm, he]; exact h.modeErr
  rest hr := by rw [ha] at hr; cases hr
  work _ := hw

/-- The reset items meet the invariants, whatever was there before (R34). -/
theorem resetItems_inv {s : State} (h : s.cfg.legal = true) : (resetItems s).Inv :=
  ⟨h, Nat.zero_le _, by simp, fun _ => ⟨rfl, rfl, rfl⟩, fun hw => by cases hw⟩

/-! ### The checks, as facts about the state -/

theorem firstFault_slpBegin {s : State} (h : firstFault .slpBegin s = none) :
    s.active = false ∧ dimensionZero s = false ∧ gridTooLarge s = false := by
  simp only [firstFault] at h
  split_ifs at h with ha hd hf
  simp_all

theorem firstFault_slpPix {r g b : Byte} {s : State} (h : firstFault (.slpPix r g b) s = none) :
    s.active = true ∧ s.row ≠ s.height ∧ s.col ≠ s.width := by
  simp only [firstFault] at h
  split_ifs at h with ha hd
  simp_all [rowsDone, rowFull]

theorem firstFault_slpEor {s : State} (h : firstFault .slpEor s = none) :
    s.active = true ∧ s.row ≠ s.height ∧ s.col = s.width := by
  simp only [firstFault] at h
  split_ifs at h with ha hd
  simp_all [rowsDone, rowFull]

/-! ### The invariants of R33, step by step -/

/-- What a command writes when its checks pass keeps the invariants. -/
theorem State.Inv.effect {i : Instr} {s : State} (h : s.Inv) (hf : firstFault i s = none) : (effect i s).Inv := by
  cases i with
  | bewEnc w => exact h
  | crcInit => exact h.setAcc _
  | crcUpd b => exact h.setAcc _
  | crcFin => exact h
  | slpSetw w => exact h.setWidth (by simpa [firstFault] using hf) w
  | slpSeth w => exact h.setHeight (by simpa [firstFault] using hf) w
  | slpBegin =>
    obtain ⟨-, hd, hl⟩ := firstFault_slpBegin hf
    exact h.of_work (.begin hd hl) rfl rfl rfl rfl rfl
  | slpPix r g b =>
    obtain ⟨ha, hr, hc⟩ := firstFault_slpPix hf
    exact h.of_work ((h.work ha).pushPixel hr hc r g b) ha rfl rfl rfl rfl
  | slpEor =>
    obtain ⟨ha, hr, hc⟩ := firstFault_slpEor hf
    exact h.of_work ((h.work ha).closeRow hr hc) ha rfl rfl rfl rfl
  | slpPack => exact h.endGrid
  | chbPushb b => exact h.pushPayload (by simpa [firstFault] using hf)
  | chbPushw w => exact h.pushPayload (by simpa [firstFault] using hf)
  | chbBuild t => exact (h.setAcc _).clearPayload
  | sysRst => exact resetItems_inv h.capacities

/-- Every command keeps the invariants. -/
theorem State.Inv.after {s : State} (h : s.Inv) (i : Instr) : (after i s).Inv := by
  rcases after_cases i s with ⟨-, -, e⟩ | ⟨c, -, -, -, e⟩ | ⟨-, hf, e⟩ <;> rw [e]
  · exact h.respond _ _
  · exact (h.setFault (faultCode_ne_ok c)).respond _ _
  · exact (h.effect hf).respond _ _

/-- Every word keeps the invariants, an illegal one included (R161). -/
theorem State.Inv.afterWord {s : State} (h : s.Inv) (c : Command) : (afterWord c s).Inv := by
  cases hd : decode c with
  | ok i => rw [afterWord_ok hd]; exact h.after i
  | error e =>
    rcases mode_cases s with hm | hm
    · rw [afterWord_illegal hd hm]; exact (h.setFault (by decide)).respond _ _
    · rw [afterWord_fault hm (by simp [hd])]; exact h.respond _ _

/-- A command cut short leaves the reset items, whatever it answered (R190). -/
theorem cutShort_inv {s : State} (h : s.cfg.legal = true) (c : Command) : (cutShort c s).Inv := by
  obtain ⟨log, e, -⟩ := cutShort_items c s
  rw [e]
  exact (resetItems_inv h).of_samePacker ⟨rfl, rfl, rfl, rfl, rfl, rfl⟩ rfl (Nat.zero_le _) (by simp)

/-- Settles O24: the step is a word, a reset or a command cut short, and each keeps the invariants. -/
theorem stepKeepsInv : Obligations.StepKeepsInv := by
  intro s t h hs
  rcases step_cases hs with ⟨-, rfl⟩ | ⟨c, rest, -, rfl⟩ | ⟨rest, -, rfl⟩ | ⟨c, rest, -, rfl⟩
  · exact h
  · exact (h.setInputs rest).afterWord c
  · exact resetItems_inv h.capacities
  · exact cutShort_inv (s := setInputs rest s) h.capacities c

/-- The reset state meets the invariants for every legal capacity: it is its own reset (R34). -/
theorem resetWith_meets_inv {cfg : Config} (h : cfg.legal = true) : (State.resetWith cfg).Inv :=
  resetItems_inv (s := State.resetWith cfg) h

/-- Settles O25: the invariants hold at reset and every step keeps them. -/
theorem reachableStatesMeetInv : Obligations.ReachableStatesMeetInv := by
  intro cfg xs k t hc hr
  have hInv : t.Inv := runSteps_invariant stepKeepsInv ((resetWith_meets_inv hc).setInputs xs) hr
  exact ⟨hInv, hInv.slb_le⟩

/-- A command that ends in RUN mode passed its checks, and its whole outcome is its effect and its OK response. -/
theorem exec_completed {i : Instr} {s t : State} (h : exec i s = .next t) (ht : t.mode = .run) :
    firstFault i s = none ∧ t = respond 0x00#8 (emitted i s) (effect i s) := by
  rw [exec_eq] at h
  cases h
  exact (after_completed ht).2

/-- Settles O28: the checks put COL below WIDTH and ROW below HEIGHT, so neither increment wraps. -/
theorem countersNeverWrap : Obligations.CountersNeverWrap := by
  intro s t h _ ht
  refine ⟨fun r g b he => ?_, fun he => ?_⟩
  · obtain ⟨hf, rfl⟩ := exec_completed he ht
    obtain ⟨ha, -, hc⟩ := firstFault_slpPix hf
    exact toNat_succ_of_lt (toNat_lt_of_le_of_ne (h.work ha).col hc)
  · obtain ⟨hf, rfl⟩ := exec_completed he ht
    obtain ⟨ha, hr, -⟩ := firstFault_slpEor hf
    exact toNat_succ_of_lt (toNat_lt_of_le_of_ne (h.work ha).row hr)

/-- Settles O22: the three invariants at reset. -/
theorem resetMeetsInvariants : Obligations.ResetMeetsInvariants :=
  ⟨fun _ hc => ⟨resetWith_meets_inv hc, rfl, fun ha => by cases ha⟩, rfl, resetWith_meets_inv (by decide)⟩

/-- Settles O23: the values of R34, one by one. -/
theorem resetValues : Obligations.ResetValues :=
  fun _ => ⟨rfl, rfl, rfl, rfl, rfl, rfl, rfl, rfl, rfl, rfl⟩

/-- Settles O54: an idle packer is at rest, PB is empty, and RUN mode fixes ERR. -/
theorem idleForgetsThePast : Obligations.IdleForgetsThePast := by
  intro s h hi
  simp only [idle, Bool.and_eq_true, Bool.not_eq_true', beq_iff_eq, List.isEmpty_iff] at hi
  obtain ⟨⟨hm, ha⟩, hpb⟩ := hi
  obtain ⟨hrow, hcol, hslb⟩ := h.rest ha
  exact ⟨rfl, rfl, rfl, hrow, hcol, ha, hslb, hpb, hm, h.modeErr.mp hm⟩

/-! ### What a command writes (the W entries of R22) -/

theorem sameItem_refl (x : Item) (s : State) : sameItem x s s := by cases x <;> rfl

/-- A response writes none of the eight items. -/
theorem sameItem_respond {x : Item} {s t : State} (h : sameItem x s t) (c : Byte) (d : List Byte) :
    sameItem x s (respond c d t) := by
  cases x <;> exact h

/-- Nor does the fault entry (R167). -/
theorem sameItem_setFault (x : Item) (c : Byte) (s : State) : sameItem x s (setFault c s) := by
  cases x <;> rfl

/-- The table of R22, W entries: an unmarked entry is a field the effect does not write, a marked one is no case. -/
theorem effect_sameItem {i : Instr} {x : Item} (h : writesItem i x = false) (s : State) : sameItem x s (effect i s) := by
  cases i <;> cases x <;> first | rfl | cases h

/-- Settles O52: a refusal and a fault write no item, and a completed command writes those of its effect. -/
theorem onlyListedCommandsWrite : Obligations.OnlyListedCommandsWrite := by
  intro i s t h
  rw [exec_eq] at h
  cases h
  refine ⟨fun x hx => ?_, ⟨after_cfg i s, after_inputs i s, after_freeUses i s⟩, ?_⟩
  · rcases after_cases i s with ⟨-, -, e⟩ | ⟨c, -, -, -, e⟩ | ⟨-, -, e⟩ <;> rw [e]
    · exact sameItem_respond (sameItem_refl x s) _ _
    · exact sameItem_respond (sameItem_setFault x _ s) _ _
    · exact sameItem_respond (effect_sameItem hx s) _ _
  · rcases after_cases i s with ⟨-, -, e⟩ | ⟨c, -, -, -, e⟩ | ⟨-, -, e⟩ <;> rw [e]
    · exact .inr (.inr ⟨rfl, rfl⟩)
    · exact .inr (.inl rfl)
    · by_cases hi : i = .sysRst
      · exact .inl hi
      · exact .inr (.inr (effect_mode hi s))

/-! ### Two states that take the same branch of a command -/

/-- A command whose checks pass where it may execute: RUN mode, or SYS.RST in either mode (R130). -/
theorem after_passed {i : Instr} {s : State} (hm : s.mode = .run ∨ i = .sysRst) (hf : firstFault i s = none) :
    after i s = respond 0x00#8 (emitted i s) (effect i s) := by
  rcases hm with hm | rfl
  · exact after_run hm hf
  · exact after_sysRst s

/-- Two states of the same MODE and ERR in which the checks and the data of a command agree are both refused, both raise the
same fault, or both complete with the same data. -/
theorem after_cases_pair {i : Instr} {s s' : State} (hm : s'.mode = s.mode) (he : s'.err = s.err)
    (hf : firstFault i s' = firstFault i s) (hd : emitted i s' = emitted i s) :
    (after i s = respond s.err [] s ∧ after i s' = respond s.err [] s') ∨
    (∃ c, after i s = respond c [] (setFault c s) ∧ after i s' = respond c [] (setFault c s')) ∨
    (after i s = respond 0x00#8 (emitted i s) (effect i s) ∧
      after i s' = respond 0x00#8 (emitted i s) (effect i s')) := by
  rcases after_cases i s with ⟨hs, hi, e⟩ | ⟨c, hs, -, hc, e⟩ | ⟨hs, hn, e⟩
  · exact .inl ⟨e, he ▸ after_fault (hm.trans hs) hi⟩
  · exact .inr (.inl ⟨faultCode c, e, after_raise (hm.trans hs) (hf.trans hc)⟩)
  · exact .inr (.inr ⟨e, hd ▸ after_passed (hm ▸ hs) (hf.trans hn)⟩)

/-! ### What a command reads (the R entries of R22) -/

section

variable {i : Instr} {x : Item} (h : readsItem i x = false) (s u : State)

@[simp] theorem withItemOf_mode : (withItemOf x s u).mode = s.mode := by cases x <;> rfl

@[simp] theorem withItemOf_err : (withItemOf x s u).err = s.err := by cases x <;> rfl

/-- Replacing an item commutes with delivering a response. -/
theorem respond_withItemOf (c : Byte) (d : List Byte) : respond c d (withItemOf x s u) = withItemOf x (respond c d s) u := by
  cases x <;> rfl

/-- Replacing an item commutes with the fault entry. -/
theorem setFault_withItemOf (c : Byte) : setFault c (withItemOf x s u) = withItemOf x (setFault c s) u := by
  cases x <;> rfl

include h

/-- The table of R22, R entries, for the checks: an unmarked item does not occur in them, a marked one is no case. -/
theorem firstFault_withItemOf : firstFault i (withItemOf x s u) = firstFault i s := by
  cases i <;> cases x <;> first | rfl | cases h

/-- The table of R22, R entries, for the data. -/
theorem emitted_withItemOf : emitted i (withItemOf x s u) = emitted i s := by
  cases i <;> cases x <;> first | rfl | cases h

/-- The table of R22, R entries, for the writes: every other item comes out the same. -/
theorem effect_withItemOf :
    effect i (withItemOf x s u) = withItemOf x (effect i s) (effect i (withItemOf x s u)) := by
  cases i <;> cases x <;> first | rfl | cases h

end

/-- A delivered response is no item. -/
@[simp] theorem withItemOf_respond_right (x : Item) (s u : State) (c : Byte) (d : List Byte) :
    withItemOf x s (respond c d u) = withItemOf x s u := by
  cases x <;> rfl

/-- Replacing an item by the replaced one. -/
@[simp] theorem withItemOf_withItemOf_right (x : Item) (s r u : State) :
    withItemOf x s (withItemOf x r u) = withItemOf x s u := by
  cases x <;> rfl

/-- Settles O53: the checks and the data do not see the item, so the command takes the same branch, and each branch carries
the replacement through. -/
theorem onlyListedCommandsRead : Obligations.OnlyListedCommandsRead := by
  intro i x s u t t' h ht ht'
  rw [exec_eq] at ht ht'
  cases ht
  cases ht'
  rcases after_cases_pair (withItemOf_mode s u) (withItemOf_err s u) (firstFault_withItemOf h s u)
      (emitted_withItemOf h s u) with ⟨e, e'⟩ | ⟨c, e, e'⟩ | ⟨e, e'⟩ <;> rw [e, e']
  · rw [respond_withItemOf, withItemOf_withItemOf_right]
  · rw [setFault_withItemOf, respond_withItemOf, withItemOf_withItemOf_right]
  · rw [withItemOf_respond_right, ← respond_withItemOf, ← effect_withItemOf h]

/-! ### Words: what they read and what they leave alone -/

/-- Settles O8: every command and every word answers a next state, and the decoded word's is the command's. -/
theorem stepRunsDecodedCommand : Obligations.StepRunsDecodedCommand := by
  intro s c rest i hs hd
  rw [step_word hs, afterWord_ok hd, exec_eq]
  rfl

/-- A command decodes from its own word, every operand bit included (R60 to R64). -/
theorem decode_encode (i : Instr) : decode (encode i) = .ok i := by
  cases i <;> simp [encode, decodeFields]

/-- A command does not look at the host's later inputs (R21). -/
theorem after_setInputs (i : Instr) (xs : List HostInput) (s : State) :
    after i (setInputs xs s) = setInputs xs (after i s) := by
  have hf : firstFault i (setInputs xs s) = firstFault i s := by cases i <;> rfl
  have hd : emitted i (setInputs xs s) = emitted i s := by cases i <;> rfl
  have heff : effect i (setInputs xs s) = setInputs xs (effect i s) := by cases i <;> rfl
  rcases after_cases_pair (s := s) (s' := setInputs xs s) rfl rfl hf hd with
    ⟨e, e'⟩ | ⟨c, e, e'⟩ | ⟨e, e'⟩ <;> rw [e, e']
  · rfl
  · rfl
  · rw [heff]; rfl

/-- The step on the word of a command is the command's outcome, with the later inputs left to come. -/
theorem step_encode (i : Instr) (xs : List HostInput) (s : State) :
    step { s with inputs := .word (encode i) :: xs } = .next (setInputs xs (after i s)) := by
  rw [step_word rfl, afterWord_ok (decode_encode i), ← after_setInputs]
  rfl

/-- Settles O56, by induction over the commands: the first word's step is the first command's execution. -/
theorem wordStreamRunsCommands : Obligations.WordStreamRunsCommands := by
  intro cs rest s
  rw [execAll_eq]
  induction cs generalizing s with
  | nil => rfl
  | cons i cs ih =>
    calc runSteps (cs.length + 1)
          { s with inputs := .word (encode i) :: (cs.map (fun i => HostInput.word (encode i)) ++ rest) }
        = runSteps cs.length (setInputs (cs.map (fun i => HostInput.word (encode i)) ++ rest) (after i s)) :=
          runSteps_succ (step_encode i _ s) _
      _ = .next (afterAll cs (setInputs rest (after i s))) := ih (after i s)
      _ = .next (afterAll (i :: cs) (setInputs rest s)) := by rw [afterAll_cons, after_setInputs]

/-- `s` with the response log, the inputs and the counter of `u`: what is no item and no parameter. -/
def inEnvironmentOf (s u : State) : State := { s with rsp := u.rsp, inputs := u.inputs, freeUses := u.freeUses }

/-- Agreement in the items and the parameters is a difference in the environment alone. -/
theorem eq_inEnvironmentOf {s u : State} (h : SameItems s u) (hc : u.cfg = s.cfg) : u = inEnvironmentOf s u := by
  cases h
  cases u
  simp_all [inEnvironmentOf]

/-- A change of environment changes no item. -/
theorem sameItems_inEnvironmentOf (s u : State) : SameItems s (inEnvironmentOf s u) :=
  ⟨rfl, rfl, rfl, rfl, rfl, rfl, rfl, rfl, rfl, rfl⟩

/-- A command delivers the same response in any environment, and writes the same. -/
theorem after_inEnvironmentOf (i : Instr) (s u : State) :
    ∃ c d t, after i s = respond c d t ∧ t.rsp = s.rsp ∧
      after i (inEnvironmentOf s u) = respond c d (inEnvironmentOf t u) := by
  have hf : firstFault i (inEnvironmentOf s u) = firstFault i s := by cases i <;> rfl
  have hd : emitted i (inEnvironmentOf s u) = emitted i s := by cases i <;> rfl
  have heff : effect i (inEnvironmentOf s u) = inEnvironmentOf (effect i s) u := by cases i <;> rfl
  rcases after_cases_pair (s := s) (s' := inEnvironmentOf s u) rfl rfl hf hd with
    ⟨e, e'⟩ | ⟨c, e, e'⟩ | ⟨e, e'⟩
  · exact ⟨_, _, _, e, rfl, e'⟩
  · exact ⟨_, _, _, e, rfl, e'⟩
  · exact ⟨_, _, _, e, effect_rsp i s, heff ▸ e'⟩

/-- So does a word, an illegal one included (R161, R168). -/
theorem afterWord_inEnvironmentOf (c : Command) (s u : State) :
    ∃ k d t, afterWord c s = respond k d t ∧ t.rsp = s.rsp ∧
      afterWord c (inEnvironmentOf s u) = respond k d (inEnvironmentOf t u) := by
  cases hd : decode c with
  | ok i => rw [afterWord_ok hd, afterWord_ok hd]; exact after_inEnvironmentOf i s u
  | error e =>
    rcases mode_cases s with hm | hm
    · exact ⟨_, _, _, afterWord_illegal hd hm, rfl, afterWord_illegal hd hm⟩
    · have hr : decode c ≠ .ok .sysRst := by simp [hd]
      exact ⟨_, _, _, afterWord_fault hm hr, rfl, afterWord_fault hm hr⟩

/-- Settles O13: two states that agree in items and parameters differ in the environment alone. -/
theorem wordsReadOnlyItems : Obligations.WordsReadOnlyItems := by
  intro c s u h hc
  obtain ⟨k, d, t, e, hr, e'⟩ := afterWord_inEnvironmentOf c s u
  rw [← eq_inEnvironmentOf h hc] at e'
  refine ⟨_, _, ⟨k, d⟩, executeWord_eq c s, executeWord_eq c u, ?_, ?_, ?_⟩
  · rw [e, e']; exact sameItems_inEnvironmentOf (respond k d t) (respond k d u)
  · rw [e, respond_rsp, hr]
  · rw [e', respond_rsp]; rfl

/-- Settles O14: a word adds one response, a reset none, and a command cut short at most one. -/
theorem stepKeepsConfigAndLog : Obligations.StepKeepsConfigAndLog := by
  intro s t hs
  rcases step_cases hs with ⟨hx, rfl⟩ | ⟨c, rest, hx, rfl⟩ | ⟨rest, hx, rfl⟩ | ⟨c, rest, hx, rfl⟩
  · exact ⟨rfl, List.prefix_rfl, by simp [hx]⟩
  · obtain ⟨r, hr⟩ := afterWord_rsp c (setInputs rest s)
    exact ⟨by simp, by rw [hr]; exact List.prefix_append _ _, by simp [hx]⟩
  · exact ⟨rfl, List.prefix_rfl, by simp [hx]⟩
  · obtain ⟨log, e, hlog⟩ := cutShort_items c (setInputs rest s)
    rw [e]
    exact ⟨rfl, hlog, by simp [hx]⟩

end Sys2Proof.Machine
end

section
/-! PROOFS. Family `20_memory`: the byte transport of command words (R46), and the word push as four byte pushes (R45). -/

namespace Sys2Proof.Machine

/-! ### The byte transport -/

/-- The receiver takes exactly the transported word off the stream (R46). -/
@[simp] theorem receiveWord_transportBytes (c : Command) (rest : List Byte) :
    receiveWord (transportBytes c ++ rest) = .ok (c, rest) := by
  simp [transportBytes, bew, receiveWord]

/-- A byte stream decodes as the command of the word at its head (R46, R66). -/
theorem decodeBytes_ok {stream rest : List Byte} {c : Command} {i : Instr} (hr : receiveWord stream = .ok (c, rest))
    (hd : decode c = .ok i) : decodeBytes stream = .ok (i, rest) := by
  simp [decodeBytes, hr, hd]

/-- Settles O6: the receiver reads back what the transport wrote, and a command decodes from its own word. -/
theorem byteTransportAgrees : Obligations.ByteTransportAgrees :=
  ⟨fun c rest => ⟨rfl, rfl, receiveWord_transportBytes c rest⟩,
    fun i rest => decodeBytes_ok (receiveWord_transportBytes (encode i) rest) (decode_encode i)⟩

/-! ### The word push -/

/-- A word push that fits adds the four bytes of the word to PB (R122). -/
theorem after_chbPushw {s : State} (w : Word) (hm : s.mode = .run) (hc : s.pb.length + 4 ≤ s.cfg.pbCap) :
    after (.chbPushw w) s = { s with pb := s.pb ++ bew w, rsp := s.rsp ++ [⟨0x00#8, []⟩] } := by
  have hf : firstFault (.chbPushw w) s = none := by simpa [firstFault, payloadFull] using hc
  rw [after_run hm hf]
  simp [effect, emitted, respond, pushPayload]

/-- Settles O50: both ways append `BEW(w)` to PB and differ in the number of responses alone. -/
theorem wordPushIsFourBytePushes : Obligations.WordPushIsFourBytePushes := by
  intro w s hm hc
  refine ⟨_, _, exec_eq _ s, execAll_eq _ s, ?_, ?_⟩
  · rw [after_chbPushw w hm hc, afterAll_pushes (bew w) s hm (by simpa using hc)]
    exact ⟨rfl, rfl, rfl, rfl, rfl, rfl, rfl, rfl, rfl, rfl⟩
  · rw [after_chbPushw w hm hc]
    rfl

end Sys2Proof.Machine
end

section
/-! PROOFS. Family `30_encoding`: decoder and encoder are inverse (R60 to R66), the decoder is the opcode map (R63, R65),
assembling what disassembly prints (R68, R71), and the contract of a word's one response (R70). -/

namespace Sys2Proof.Machine

/-! ### Encoder and decoder are inverse -/

/-- Settles O2: each format's reader undoes its operand field. -/
theorem decodeEncodeAgree : Obligations.DecodeEncodeAgree := decode_encode

/-- A format N word that decodes is its command's word. -/
theorem encode_of_readN {o : Byte} {x : Word} {i j : Instr} (h : readN o x j = .ok i)
    (hj : encode j = commandWord o 0#32) : encode i = commandWord o x := by
  obtain ⟨rfl, rfl⟩ := readN_ok h
  exact hj

/-- A format B word that decodes is its command's word. -/
theorem encode_of_readB {o : Byte} {x : Word} {i : Instr} {make : Byte → Instr} (h : readB o x make = .ok i)
    (hm : ∀ b, encode (make b) = commandWord o (byteOperand b)) : encode i = commandWord o x := by
  obtain ⟨b, rfl, rfl⟩ := readB_ok h
  exact hm b

/-- A format P word that decodes is its command's word. -/
theorem encode_of_readP {o : Byte} {x : Word} {i : Instr} {make : Byte → Byte → Byte → Instr} (h : readP o x make = .ok i)
    (hm : ∀ r g b, encode (make r g b) = commandWord o (pixelOperand r g b)) : encode i = commandWord o x := by
  obtain ⟨r, g, b, rfl, rfl⟩ := readP_ok h
  exact hm r g b

/-- One row of the decoder: the opcode is the row's, or the rows after it decide. -/
theorem encode_of_row {o k : Byte} {x : Word} {i : Instr} {row rest : Except Illegal Instr}
    (hrow : o = k → row = .ok i → encode i = commandWord o x) (hrest : rest = .ok i → encode i = commandWord o x)
    (h : (if o = k then row else rest) = .ok i) : encode i = commandWord o x := by
  by_cases hk : o = k
  · exact hrow hk (by rwa [if_pos hk] at h)
  · exact hrest (by rwa [if_neg hk] at h)

/-- Fields that decode are the fields of their command's word: row by row of R63, and no case for the other opcodes. -/
theorem encode_of_decodeFields {o : Byte} {x : Word} {i : Instr} :
    decodeFields o x = .ok i → encode i = commandWord o x := by
  unfold decodeFields
  refine encode_of_row ?_ ?_
  · rintro rfl h; cases h; rfl
  refine encode_of_row ?_ ?_
  · rintro rfl h; exact encode_of_readN h rfl
  refine encode_of_row ?_ ?_
  · rintro rfl h; exact encode_of_readB h fun _ => rfl
  refine encode_of_row ?_ ?_
  · rintro rfl h; exact encode_of_readN h rfl
  refine encode_of_row ?_ ?_
  · rintro rfl h; cases h; rfl
  refine encode_of_row ?_ ?_
  · rintro rfl h; cases h; rfl
  refine encode_of_row ?_ ?_
  · rintro rfl h; exact encode_of_readN h rfl
  refine encode_of_row ?_ ?_
  · rintro rfl h; exact encode_of_readP h fun _ _ _ => rfl
  refine encode_of_row ?_ ?_
  · rintro rfl h; exact encode_of_readN h rfl
  refine encode_of_row ?_ ?_
  · rintro rfl h; exact encode_of_readN h rfl
  refine encode_of_row ?_ ?_
  · rintro rfl h; exact encode_of_readB h fun _ => rfl
  refine encode_of_row ?_ ?_
  · rintro rfl h; cases h; rfl
  refine encode_of_row ?_ ?_
  · rintro rfl h; cases h; rfl
  refine encode_of_row ?_ ?_
  · rintro rfl h; exact encode_of_readN h rfl
  exact fun h => by cases h

/-- Settles O3: a word is put together from its two fields, and those are its command's. -/
theorem everyCommandHasOneWord : Obligations.EveryCommandHasOneWord := by
  intro c i h
  rw [encode_of_decodeFields h, commandWord_fields]

/-- The decoder is the encoder's inverse, in both directions. -/
theorem decode_ok_iff {c : Command} {i : Instr} : decode c = .ok i ↔ encode i = c :=
  ⟨everyCommandHasOneWord c i, fun h => h ▸ decode_encode i⟩

/-- No two commands share a word (R64). -/
theorem encode_inj {i j : Instr} (h : encode i = encode j) : i = j :=
  Except.ok.inj ((decode_encode i).symm.trans (h ▸ decode_encode j))

/-- Settles O1: the legal words are their commands' own words; the others have a reserved bit set or no opcode of R63. -/
theorem sampleWordsDecode : Obligations.SampleWordsDecode :=
  ⟨decode_encode (.bewEnc 0xFFFFFFFF#32), decode_encode .crcInit, decode_encode (.crcUpd 0xFF#8),
    decode_encode (.slpPix 0xFF#8 0x0A#8 0x0B#8), decode_encode (.slpSetw 8#32), decode_encode (.chbPushb 8#8),
    decode_encode (.chbBuild 0x49454E44#32), decode_encode .sysRst, rfl, rfl, rfl, rfl, rfl⟩

/-! ### The opcode map: which words a row matches -/

/-- A mask with the byte 0xFF over the opcode compares the opcode and the reserved bits of the operand field (R63). -/
theorem fields_of_masked {c : Command} {o : Byte} {m : Word} (h : c &&& commandWord 0xFF#8 m = commandWord o 0#32) :
    opcodeField c = o ∧ operandField c &&& m = 0#32 := by
  rw [← commandWord_fields c, commandWord_and] at h
  obtain ⟨ho, hx⟩ := commandWord_inj h
  exact ⟨BitVec.and_allOnes.symm.trans ho, hx⟩

/-- A mask over a word compares byte by byte. -/
theorem bytes_of_masked {x : Word} {m3 m2 m1 m0 : Byte} (h : x &&& wordOfBytes m3 m2 m1 m0 = 0#32) :
    byte3 x &&& m3 = 0#8 ∧ byte2 x &&& m2 = 0#8 ∧ byte1 x &&& m1 = 0#8 ∧ byte0 x &&& m0 = 0#8 := by
  rw [← wordOfBytes_bytes x, wordOfBytes_and, show 0#32 = wordOfBytes 0#8 0#8 0#8 0#8 by decide] at h
  exact ⟨by simpa using congrArg byte3 h, by simpa using congrArg byte2 h, by simpa using congrArg byte1 h,
    by simpa using congrArg byte0 h⟩

/-- A byte of which no bit under the mask 0xFF is set. -/
theorem eq_zero_of_masked {b : Byte} (h : b &&& 0xFF#8 = 0#8) : b = 0#8 := BitVec.and_allOnes.symm.trans h

/-- Bits 31:8 zero leave a byte (R61, format B). -/
theorem byteOperand_of_masked {x : Word} (h : x &&& 0xFFFFFF00#32 = 0#32) : byteOperand (byte0 x) = x := by
  obtain ⟨h3, h2, h1, -⟩ := bytes_of_masked (m3 := 0xFF#8) (m2 := 0xFF#8) (m1 := 0xFF#8) (m0 := 0#8) h
  calc byteOperand (byte0 x)
      = wordOfBytes (byte3 x) (byte2 x) (byte1 x) (byte0 x) := by
        rw [byteOperand, eq_zero_of_masked h3, eq_zero_of_masked h2, eq_zero_of_masked h1]
    _ = x := wordOfBytes_bytes x

/-- Bits 31:24 zero leave a pixel (R61, format P). -/
theorem pixelOperand_of_masked {x : Word} (h : x &&& 0xFF000000#32 = 0#32) :
    pixelOperand (byte2 x) (byte1 x) (byte0 x) = x := by
  obtain ⟨h3, -, -, -⟩ := bytes_of_masked (m3 := 0xFF#8) (m2 := 0#8) (m1 := 0#8) (m0 := 0#8) h
  rw [pixelOperand, ← eq_zero_of_masked h3, wordOfBytes_bytes]

section

variable {c : Command} {o : Byte}

/-- A word that a format W row matches. -/
theorem word_of_matchesW (h : c &&& 0xFF00000000#40 = commandWord o 0#32) : commandWord o (operandField c) = c := by
  obtain ⟨ho, -⟩ := fields_of_masked (m := 0#32) h
  rw [← ho, commandWord_fields]

/-- A word that a format N row matches. -/
theorem word_of_matchesN (h : c &&& 0xFFFFFFFFFF#40 = commandWord o 0#32) : commandWord o 0#32 = c := by
  obtain ⟨ho, hx⟩ := fields_of_masked (m := 0xFFFFFFFF#32) h
  have hx : operandField c = 0#32 := BitVec.and_allOnes.symm.trans hx
  rw [← ho, ← hx, commandWord_fields]

/-- A word that a format B row matches. -/
theorem word_of_matchesB (h : c &&& 0xFFFFFFFF00#40 = commandWord o 0#32) :
    commandWord o (byteOperand (byte0 (operandField c))) = c := by
  obtain ⟨ho, hx⟩ := fields_of_masked (m := 0xFFFFFF00#32) h
  rw [byteOperand_of_masked hx, ← ho, commandWord_fields]

/-- A word that a format P row matches. -/
theorem word_of_matchesP (h : c &&& 0xFFFF000000#40 = commandWord o 0#32) :
    commandWord o (pixelOperand (byte2 (operandField c)) (byte1 (operandField c)) (byte0 (operandField c))) = c := by
  obtain ⟨ho, hx⟩ := fields_of_masked (m := 0xFF000000#32) h
  rw [pixelOperand_of_masked hx, ← ho, commandWord_fields]

end

/-- A word that a row matches is the word of a command with the row's mnemonic. -/
theorem exists_encode_of_matches {c : Command} {r : OpcodeRow} (hr : r ∈ opcodeMap) (h : c &&& r.mask = r.pattern) :
    ∃ i, encode i = c ∧ i.mnemonic = r.mnemonic := by
  simp only [opcodeMap, List.mem_cons, List.not_mem_nil, or_false] at hr
  rcases hr with rfl | rfl | rfl | rfl | rfl | rfl | rfl | rfl | rfl | rfl | rfl | rfl | rfl | rfl
  · exact ⟨.bewEnc _, word_of_matchesW h, rfl⟩
  · exact ⟨.crcInit, word_of_matchesN h, rfl⟩
  · exact ⟨.crcUpd _, word_of_matchesB h, rfl⟩
  · exact ⟨.crcFin, word_of_matchesN h, rfl⟩
  · exact ⟨.slpSetw _, word_of_matchesW h, rfl⟩
  · exact ⟨.slpSeth _, word_of_matchesW h, rfl⟩
  · exact ⟨.slpBegin, word_of_matchesN h, rfl⟩
  · exact ⟨.slpPix _ _ _, word_of_matchesP h, rfl⟩
  · exact ⟨.slpEor, word_of_matchesN h, rfl⟩
  · exact ⟨.slpPack, word_of_matchesN h, rfl⟩
  · exact ⟨.chbPushb _, word_of_matchesB h, rfl⟩
  · exact ⟨.chbPushw _, word_of_matchesW h, rfl⟩
  · exact ⟨.chbBuild _, word_of_matchesW h, rfl⟩
  · exact ⟨.sysRst, word_of_matchesN h, rfl⟩

/-- The word of a command matches a row with its mnemonic. -/
theorem exists_row_matches_encode (i : Instr) :
    ∃ r ∈ opcodeMap, r.mnemonic = i.mnemonic ∧ encode i &&& r.mask = r.pattern := by
  have h : Laws.EncodingRow.Statement i := by
    cases i with
    | bewEnc w => exact Laws.EncodingRow.bewEnc w
    | crcInit => exact Laws.EncodingRow.crcInit
    | crcUpd b => exact Laws.EncodingRow.crcUpd b
    | crcFin => exact Laws.EncodingRow.crcFin
    | slpSetw w => exact Laws.EncodingRow.slpSetw w
    | slpSeth w => exact Laws.EncodingRow.slpSeth w
    | slpBegin => exact Laws.EncodingRow.slpBegin
    | slpPix r g b => exact Laws.EncodingRow.slpPix r g b
    | slpEor => exact Laws.EncodingRow.slpEor
    | slpPack => exact Laws.EncodingRow.slpPack
    | chbPushb b => exact Laws.EncodingRow.chbPushb b
    | chbPushw w => exact Laws.EncodingRow.chbPushw w
    | chbBuild t => exact Laws.EncodingRow.chbBuild t
    | sysRst => exact Laws.EncodingRow.sysRst
  obtain ⟨r, hr, hm, ha⟩ := h
  exact ⟨r, hr, hm, by simpa [OpcodeRow.admits] using ha⟩

/-- A mnemonic names one row of the opcode map. -/
theorem eq_of_mnemonic_eq {r q : OpcodeRow} (hr : r ∈ opcodeMap) (hq : q ∈ opcodeMap) (h : r.mnemonic = q.mnemonic) :
    r = q :=
  List.inj_on_of_nodup_map (f := OpcodeRow.mnemonic) (by decide) hr hq h

/-- A row of the opcode map matches exactly the words of the commands with its mnemonic. -/
theorem matches_iff {c : Command} {r : OpcodeRow} (hr : r ∈ opcodeMap) :
    c &&& r.mask = r.pattern ↔ ∃ i, encode i = c ∧ i.mnemonic = r.mnemonic := by
  refine ⟨exists_encode_of_matches hr, ?_⟩
  rintro ⟨i, rfl, hi⟩
  obtain ⟨q, hq, hqi, hm⟩ := exists_row_matches_encode i
  rwa [eq_of_mnemonic_eq hr hq (hi.symm.trans hqi.symm)]

/-- Settles O4: a row matches the words of its mnemonic's commands, and two rows that match one word have the mnemonic of
the one command it is. -/
theorem decoderMeetsOpcodeMap : Obligations.DecoderMeetsOpcodeMap := by
  refine ⟨fun c r hr => ?_, fun c r q hr hq hcr hcq => ?_⟩
  · simp only [matches_iff hr, decode_ok_iff]
  · obtain ⟨i, hi, hir⟩ := (matches_iff hr).mp hcr
    obtain ⟨j, hj, hjq⟩ := (matches_iff hq).mp hcq
    obtain rfl : i = j := encode_inj (hi.trans hj.symm)
    exact eq_of_mnemonic_eq hr hq (hir.symm.trans hjq)

/-! ### Illegal words -/

/-- A word is a command exactly when some row matches it (R65). -/
theorem decodes_iff_matches (c : Command) : (∃ i, decode c = .ok i) ↔ ∃ r ∈ opcodeMap, c &&& r.mask = r.pattern := by
  simp only [decode_ok_iff]
  constructor
  · rintro ⟨i, rfl⟩
    obtain ⟨r, hr, -, hm⟩ := exists_row_matches_encode i
    exact ⟨r, hr, hm⟩
  · rintro ⟨r, hr, h⟩
    obtain ⟨i, hi, -⟩ := exists_encode_of_matches hr h
    exact ⟨i, hi⟩

/-- A word is illegal exactly when it is no command. -/
theorem illegal_iff_not_decodes (c : Command) : (∃ e, decode c = .error e) ↔ ¬∃ i, decode c = .ok i := by
  cases decode c <;> simp

/-- Settles O5: illegal is what no row matches, and the port raises ILLEGAL_COMMAND for it. -/
theorem unmatchedWordsAreIllegal : Obligations.UnmatchedWordsAreIllegal := by
  refine ⟨fun c => ?_, ⟨_, rfl⟩, ⟨_, rfl⟩, fun c e s rest hd hm hi => ?_⟩
  · simp only [illegal_iff_not_decodes, decodes_iff_matches, not_exists, not_and]
  · rw [step_word hi, afterWord_illegal hd (by exact hm)]
    rfl

/-! ### Assembling what disassembly prints -/

/-- A run of characters that the assembler reads as one name. -/
def ReadAsName (m : List Char) : Prop := m ≠ [] ∧ m.all plainChar = true ∧ classify m = some (.name m)

theorem readAsName_mnemonic (i : Instr) : ReadAsName (mnemonicChars i) := by
  cases i <;> exact ⟨List.cons_ne_nil _ _, rfl, rfl⟩

theorem readAsName_illegal : ReadAsName illegalChars := ⟨List.cons_ne_nil _ _, rfl, rfl⟩

/-- A line whose tokens begin with a known name is what the name's reader makes of the other tokens. -/
theorem assembleLine_of_lex {line m : List Char} {ops : List Token} {f : List Token → Except AsmError (List Command)}
    (hl : lex [] line = some (.name m :: ops)) (hf : readerOf m mnemonicTable = some f) : assembleLine line = f ops := by
  simp [assembleLine, hl, hf]

section

variable {m : List Char} (hm : ReadAsName m)

include hm

/-- The line of a name alone. -/
theorem lex_name : lex [] (m ++ []) = some [.name m] := by
  obtain ⟨hne, hp, hc⟩ := hm
  rw [lex_run m hp, List.append_nil, lex, endRun_rev m hne, hc]
  rfl

/-- The line of a name and a hexadecimal operand. -/
theorem lex_nameHex {k n : Nat} (hk : 0 < k) (hn : n < 16 ^ k) :
    lex [] (m ++ hexOperand k n) = some [.name m, .num n] := by
  obtain ⟨hne, hp, hc⟩ := hm
  rw [lex_hexOperand m hne hp k n hk hn, hc]
  rfl

/-- The line of a command without operand. -/
theorem assembleLine_printedN {i : Instr} (hf : readerOf m mnemonicTable = some (asmN i)) :
    assembleLine (m ++ []) = .ok [encode i] :=
  assembleLine_of_lex (lex_name hm) hf

/-- The line of a command with a byte operand. -/
theorem assembleLine_printedB {make : Byte → Instr} (hf : readerOf m mnemonicTable = some (asmB make)) (b : Byte) :
    assembleLine (m ++ hexOperand 2 b.toNat) = .ok [encode (make b)] := by
  rw [assembleLine_of_lex (lex_nameHex hm (by decide) b.isLt) hf]
  simp [asmB, oneCommand, b.isLt]

/-- The line of a command with a word operand, for any reader that reads a number as `asmW` does. -/
theorem assembleLine_printedW {make : Word → Instr} {f : List Token → Except AsmError (List Command)}
    (hf : readerOf m mnemonicTable = some f) (w : Word) (hw : f [.num w.toNat] = asmW make [.num w.toNat]) :
    assembleLine (m ++ hexOperand 8 w.toNat) = .ok [encode (make w)] := by
  rw [assembleLine_of_lex (lex_nameHex hm (by decide) w.isLt) hf, hw]
  simp [asmW, oneCommand, w.isLt]

end

/-- The pixel of three bytes is in range and is read back as it was. -/
theorem narrowColor_bytes (r g b : Byte) :
    WideColor.inRange ⟨r.toNat, g.toNat, b.toNat⟩ = true ∧ narrowColor ⟨r.toNat, g.toNat, b.toNat⟩ = ⟨r, g, b⟩ := by
  have hr := r.isLt
  have hg := g.isLt
  have hb := b.isLt
  constructor
  · simp only [WideColor.inRange, Bool.and_eq_true, decide_eq_true_eq]
    omega
  · simp [narrowColor]

/-- The line of a pixel. -/
theorem assembleLine_printedP (r g b : Byte) :
    assembleLine (mnemonicChars (.slpPix r g b) ++ operandChars (.slpPix r g b)) = .ok [encode (.slpPix r g b)] := by
  obtain ⟨hne, hp, hc⟩ := readAsName_mnemonic (.slpPix r g b)
  obtain ⟨hin, hnarrow⟩ := narrowColor_bytes r g b
  have hl := lex_pixel (mnemonicChars (.slpPix r g b)) hne hp r g b
  rw [hc] at hl
  rw [assembleLine_of_lex (f := asmP) hl rfl]
  simp [asmP, hin, hnarrow, oneCommand, pixelCommand]

/-- The line of a command assembles to its word. -/
theorem assembleLine_printed (i : Instr) : assembleLine (mnemonicChars i ++ operandChars i) = .ok [encode i] := by
  have hm := readAsName_mnemonic i
  cases i with
  | bewEnc w => exact assembleLine_printedW hm rfl w rfl
  | crcInit => exact assembleLine_printedN hm rfl
  | crcUpd b => exact assembleLine_printedB hm rfl b
  | crcFin => exact assembleLine_printedN hm rfl
  | slpSetw w => exact assembleLine_printedW hm rfl w rfl
  | slpSeth h => exact assembleLine_printedW hm rfl h rfl
  | slpBegin => exact assembleLine_printedN hm rfl
  | slpPix r g b => exact assembleLine_printedP r g b
  | slpEor => exact assembleLine_printedN hm rfl
  | slpPack => exact assembleLine_printedN hm rfl
  | chbPushb b => exact assembleLine_printedB hm rfl b
  | chbPushw w => exact assembleLine_printedW hm rfl w rfl
  | chbBuild t => exact assembleLine_printedW hm rfl t rfl
  | sysRst => exact assembleLine_printedN hm rfl

/-- The line of an illegal word assembles to it (R71). -/
theorem assembleLine_printedIllegal (c : Command) : assembleLine (illegalChars ++ hexOperand 10 c.toNat) = .ok [c] := by
  rw [assembleLine_of_lex (f := asmIllegal) (lex_nameHex readAsName_illegal (by decide) c.isLt) rfl]
  simp [asmIllegal, c.isLt]

/-- Settles O7: a legal word prints as its command, whose one word it is; an illegal word prints itself. -/
theorem assemblyOfDisassembly : Obligations.AssemblyOfDisassembly := by
  intro c
  unfold disassemble
  cases hd : decode c with
  | ok i => exact decode_ok_iff.mp hd ▸ assembleLine_printed i
  | error e => exact assembleLine_printedIllegal c

/-! ### The response to a word -/

/-- In FAULT mode ERR holds the code of a fault (R33). -/
theorem State.Inv.err_ne_ok {s : State} (h : s.Inv) (hm : s.mode = .fault) : s.err ≠ 0x00#8 := fun e => by
  simp [h.modeErr.mpr e] at hm

/-- A word either ends in FAULT mode, with a response that is not OK and has no data, or it is a command that completes and
ends in RUN mode. -/
theorem afterWord_failed_or_completed {s : State} (h : s.Inv) (c : Command) :
    (∃ k t, afterWord c s = respond k [] t ∧ k ≠ 0x00#8 ∧ t.mode = .fault ∧ t.rsp = s.rsp) ∨
    (∃ i, decode c = .ok i ∧ firstFault i s = none ∧ (effect i s).mode = .run ∧
      afterWord c s = respond 0x00#8 (emitted i s) (effect i s)) := by
  cases hd : decode c with
  | error e =>
    rcases mode_cases s with hm | hm
    · exact .inl ⟨_, _, afterWord_illegal hd hm, by decide, rfl, rfl⟩
    · exact .inl ⟨_, _, afterWord_fault hm (by simp [hd]), h.err_ne_ok hm, hm, rfl⟩
  | ok i =>
    rw [afterWord_ok hd]
    rcases after_cases i s with ⟨hm, -, e⟩ | ⟨k, -, -, -, e⟩ | ⟨hm, hf, e⟩
    · exact .inl ⟨_, _, e, h.err_ne_ok hm, hm, rfl⟩
    · exact .inl ⟨_, _, e, faultCode_ne_ok k, rfl, rfl⟩
    · refine .inr ⟨i, rfl, hf, ?_, e⟩
      by_cases hi : i = .sysRst
      · subst hi; rfl
      · rw [(effect_mode hi s).1]; exact hm.resolve_right hi

theorem firstFault_slpPack {s : State} (h : firstFault .slpPack s = none) :
    s.active = true ∧ s.row = s.height ∧ s.col = 0#32 := by
  simp only [firstFault] at h
  split_ifs at h with ha hd
  simp_all [rowsDone, rowUnopened]

/-- A chunk is its payload and 12 bytes (R120). -/
@[simp] theorem length_chunk (t : Word) (p : List Byte) : (chunk t p).length = 12 + p.length := by
  simp [chunk, lengthField]
  omega

/-- The data of a completed command has the length R70 lists. -/
theorem State.Inv.length_emitted {i : Instr} {s : State} (h : s.Inv) (hf : firstFault i s = none) :
    (emitted i s).length = responseLength i s := by
  cases i with
  | slpPack =>
    obtain ⟨ha, hr, hc⟩ := firstFault_slpPack hf
    simpa [emitted, responseLength, hr, hc, openRowBytes] using (h.work ha).length
  | chbBuild t => exact length_chunk t s.pb
  | _ => rfl

/-- Settles O12: a word that fails has no data and ends in FAULT mode, one that completes has R70's length and ends in RUN
mode. -/
theorem oneSoundResponsePerWord : Obligations.OneSoundResponsePerWord := by
  intro s t c rest h hi hs
  rw [step_word hi] at hs
  cases hs
  have h' := h.setInputs rest
  rcases afterWord_failed_or_completed h' c with ⟨k, t, e, hk, hm, hr⟩ | ⟨i, hd, hf, hm, e⟩
  · refine ⟨⟨k, []⟩, ?_, fun _ => rfl, ?_, fun _ _ h0 => absurd h0 hk⟩
    · rw [e, respond_rsp, hr]; rfl
    · rw [e, respond_mode]; exact iff_of_true hk hm
  · refine ⟨⟨0x00#8, emitted i (setInputs rest s)⟩, ?_, fun h0 => absurd rfl h0, ?_, fun j hj _ => ?_⟩
    · rw [e, respond_rsp, effect_rsp]; rfl
    · rw [e, respond_mode, hm]; simp
    · obtain rfl : i = j := Except.ok.inj (hd.symm.trans hj)
      have hlen : responseLength i (setInputs rest s) = responseLength i s := by cases i <;> rfl
      exact (h'.length_emitted hf).trans hlen

end Sys2Proof.Machine
end

section
/-! PROOFS. Family `40_bew`: BEW is injective with the inverse of R82, and BEW.ENC answers it (R80, R81). -/

namespace Sys2Proof.Machine

/-- Two bit vectors put together, as a number: the left one counts multiples of the right one's size. -/
theorem toNat_append_eq_add {m n : Nat} (x : BitVec m) (y : BitVec n) : (x ++ y).toNat = x.toNat * 2 ^ n + y.toNat := by
  rw [BitVec.toNat_append, ← Nat.shiftLeft_add_eq_or_of_lt y.isLt, Nat.shiftLeft_eq]

/-- The value of a word, from its bytes (R82). -/
theorem toNat_wordOfBytes (b0 b1 b2 b3 : Byte) :
    (wordOfBytes b0 b1 b2 b3).toNat = b0.toNat * 2 ^ 24 + b1.toNat * 2 ^ 16 + b2.toNat * 2 ^ 8 + b3.toNat := by
  rw [wordOfBytes, toNat_append_eq_add, toNat_append_eq_add, toNat_append_eq_add]
  ring

/-- BEW determines its word: `unbew` reads it back (R82). -/
theorem bew_inj {v w : Word} (h : bew v = bew w) : v = w :=
  Option.some.inj (by rw [← unbew_bew v, h, unbew_bew])

/-- The word whose encoding is four given bytes (R82). -/
theorem eq_wordOfBytes_of_bew {w : Word} {b0 b1 b2 b3 : Byte} (h : bew w = [b0, b1, b2, b3]) :
    w = wordOfBytes b0 b1 b2 b3 :=
  Option.some.inj (by rw [← unbew_bew w, h, unbew])

/-- Settles O30: `unbew` undoes BEW, so BEW is injective, and the word `unbew` builds has the value of R82. -/
theorem bewIsInjective : Obligations.BewIsInjective := by
  refine ⟨fun v w => bew_inj, fun w b0 b1 b2 b3 h => ?_⟩
  rw [eq_wordOfBytes_of_bew h, toNat_wordOfBytes]

/-- Settles O29: the word is BEW.ENC's own, and a command without checks or writes answers what it emits. -/
theorem bewEncEmitsBigEndian : Obligations.BewEncEmitsBigEndian := by
  refine fun w s => ⟨decode_encode (.bewEnc w), rfl, fun hm => ?_⟩
  rw [exec_eq, after_answered hm rfl]
  rfl

end Sys2Proof.Machine
end

section
/-! PROOFS. Family `41_crc`: the two other forms of `crc_step` (R94), the CRC commands one by one (R95 to R97), and a stream of
them (R98). -/

namespace Sys2Proof.Machine

/-! ### The forms of `crc_step` -/

/-- A byte lies below the bits that a shift by a byte leaves. -/
theorem xor_byte_ushiftRight (a : Word) (b : Byte) : (a ^^^ b.setWidth 32) >>> 8 = a >>> 8 := by
  have hb : (b.setWidth 32 : Word) >>> 8 = 0#32 := by
    have hlt := b.isLt
    apply BitVec.eq_of_toNat_eq
    simp only [BitVec.toNat_ushiftRight, BitVec.toNat_setWidth, BitVec.toNat_ofNat, Nat.shiftRight_eq_div_pow]
    omega
  rw [BitVec.ushiftRight_xor_distrib, hb, BitVec.xor_zero]

/-- A word without its low byte has no bit set below bit 8. -/
theorem getLsbD_xor_byte0 (x : Word) {k : Nat} (hk : k < 8) : (x ^^^ (byte0 x).setWidth 32).getLsbD k = false := by
  rw [BitVec.getLsbD_xor, BitVec.getLsbD_setWidth, byte0_bit x hk, decide_eq_true (by omega), Bool.true_and, Bool.xor_self]

/-- Eight iterations on a word are the table entry of its low byte and a shift of the rest: the iterations are linear, and
they only shift what has no low byte. -/
theorem crcIterate_eq_table (x : Word) : crcIterate 8 x = crcTable (byte0 x) ^^^ (x >>> 8) := by
  have hhigh : crcIterate 8 (x ^^^ (byte0 x).setWidth 32) = x >>> 8 := by
    rw [crcIterate_high 8 _ fun _ => getLsbD_xor_byte0 x, xor_byte_ushiftRight]
  calc crcIterate 8 x
      = crcIterate 8 ((byte0 x).setWidth 32 ^^^ (x ^^^ (byte0 x).setWidth 32)) := by
        rw [BitVec.xor_comm x, ← BitVec.xor_assoc, BitVec.xor_self, BitVec.zero_xor]
    _ = crcTable (byte0 x) ^^^ (x >>> 8) := by rw [crcIterate_xor, hhigh, crcTable]

/-- `crc_step` is its bit-loop form (R94). -/
theorem crcStep_eq_bitLoop (a : Word) (b : Byte) : crcStep a b = crcStepBitLoop a b := by
  rw [crcStepBitLoop, crcIterate_eq_table, xor_byte_ushiftRight]
  rfl

/-- Settles O41: `crc_step` is written in the table form, the bit loop splits into the table entry and the shift, and the
printed entries are computed. -/
theorem crcFormsAgree : Obligations.CrcFormsAgree :=
  ⟨fun a b => ⟨rfl, crcStep_eq_bitLoop a b⟩, by decide⟩

/-! ### The commands -/

/-- The operand field of format B is the byte, zero-extended (R61). -/
theorem byteOperand_eq_setWidth (b : Byte) : byteOperand b = b.setWidth 32 := by
  have hb := b.isLt
  apply BitVec.eq_of_toNat_eq
  rw [byteOperand, toNat_wordOfBytes, BitVec.toNat_setWidth, Nat.mod_eq_of_lt (by omega)]
  simp

section

variable {s : State} (h : s.mode = .run)

include h

/-- CRC.INIT in RUN mode (R95). -/
theorem after_crcInit : after .crcInit s = answered [] { s with acc := 0xFFFFFFFF#32 } := after_answered h rfl

/-- CRC.UPD in RUN mode (R96). -/
theorem after_crcUpd (b : Byte) : after (.crcUpd b) s = answered [] { s with acc := crcStep s.acc b } :=
  after_answered h rfl

/-- CRC.FIN in RUN mode (R97). -/
theorem after_crcFin : after .crcFin s = answered (bew (crcFinal s.acc)) s := after_answered h rfl

end

/-- Settles O31: each command has its own word and no other, and what it leaves is its rule's. -/
theorem crcCommandsAnswer : Obligations.CrcCommandsAnswer := by
  refine ⟨fun c => decode_ok_iff.trans eq_comm, fun b c => ?_, fun c => decode_ok_iff.trans eq_comm, fun b s hm => ?_⟩
  · rw [← byteOperand_eq_setWidth]
    exact decode_ok_iff.trans eq_comm
  · rw [exec_eq, exec_eq, exec_eq, after_crcInit hm, after_crcUpd hm, after_crcFin hm]
    exact ⟨rfl, rfl, rfl⟩

/-! ### Streams -/

/-- The byte a command takes into the checksum (R96). -/
def streamedByte : Instr → Option Byte
  | .crcUpd b => some b
  | _ => none

/-- A command that R98 lets into a stream: none of the three that put a value into ACC without reading it (R95, R123,
R130). -/
def KeepsStream (i : Instr) : Prop := i ≠ .crcInit ∧ i ≠ .sysRst ∧ ∀ tag, i ≠ .chbBuild tag

theorem KeepsStream.ne_sysRst {i : Instr} (h : KeepsStream i) : i ≠ .sysRst := h.2.1

/-- A command of a stream writes ACC only by the byte it takes (R22, R96). -/
theorem effect_acc {i : Instr} (hi : KeepsStream i) (s : State) :
    (effect i s).acc = crcRun s.acc (streamedByte i).toList := by
  obtain ⟨hinit, hrst, hbuild⟩ := hi
  cases i with
  | crcInit => exact absurd rfl hinit
  | sysRst => exact absurd rfl hrst
  | chbBuild tag => exact absurd rfl (hbuild tag)
  | _ => rfl

/-- A stream that ends in RUN mode leaves in ACC the run over the bytes it took, whatever is interleaved (R98). -/
theorem afterAll_acc {cs : List Instr} {s : State} (hc : ∀ i ∈ cs, KeepsStream i) (hm : (afterAll cs s).mode = .run) :
    (afterAll cs s).acc = crcRun s.acc (cs.filterMap streamedByte) := by
  induction cs generalizing s with
  | nil => rfl
  | cons i cs ih =>
    obtain ⟨hi, hcs⟩ := List.forall_mem_cons.mp hc
    have hrun : (after i s).mode = .run := afterAll_run hm fun j hj => (hcs j hj).ne_sysRst
    obtain ⟨-, -, e⟩ := after_completed hrun
    rw [afterAll_cons, ih (s := after i s) hcs hm, e, respond_acc, effect_acc hi, ← crcRun_append, List.filterMap_eq_flatMap_toList,
      List.filterMap_eq_flatMap_toList, List.flatMap_cons]

/-- One CRC.UPD per byte, from any state in RUN mode: ACC runs over the bytes, and every answer is OK and empty (R96). -/
theorem afterAll_crcUpds (bs : List Byte) {s : State} (hm : s.mode = .run) :
    afterAll (bs.map .crcUpd) s =
      { s with acc := crcRun s.acc bs, rsp := s.rsp ++ List.replicate bs.length ⟨0x00#8, []⟩ } := by
  induction bs generalizing s with
  | nil => simp
  | cons b bs ih =>
    rw [List.map_cons, afterAll_cons, after_crcUpd hm, ih (by exact hm)]
    simp [answered, List.replicate_succ]

/-- CRC.OF: CRC.INIT, one CRC.UPD per byte and CRC.FIN, from any state in RUN mode (R69, R98). -/
theorem afterAll_crcOf (bs : List Byte) {s : State} (hm : s.mode = .run) :
    afterAll (expand (.crcOf bs)) s = { s with
      acc := crcAcc bs
      rsp := s.rsp ++ List.replicate (bs.length + 1) ⟨0x00#8, []⟩ ++ [⟨0x00#8, bew (crc32 bs)⟩] } := by
  rw [expand, afterAll_cons, after_crcInit hm, afterAll_append, afterAll_crcUpds bs (by exact hm), afterAll_cons,
    after_crcFin (by exact hm), afterAll_nil]
  simp [answered, List.replicate_succ, crc32, crcAcc, Config.crcInit]

/-- Settles O42: ACC over any stream, and the whole outcome of CRC.OF. -/
theorem crcStreamIsChecksum : Obligations.CrcStreamIsChecksum := by
  refine ⟨fun cs s t _ he ht hc => ?_, fun bs s hm => ?_⟩
  · rw [execAll_eq] at he
    cases he
    exact afterAll_acc hc ht
  · rw [execAll_eq, afterAll_crcOf bs hm]

end Sys2Proof.Machine
end

section
/-! PROOFS. Family `42_slp`: the layout of a packed grid (R100, R101), the SLP commands one by one (R102 to R107), the packed
rows so far as an invariant, the canonical sequence of a grid alone and interleaved (R108), and a malformed grid (R109). -/

namespace Sys2Proof.Machine

/-! ### The layout of a packed grid (R100, R101) -/

@[simp] theorem pack_nil : pack [] = [] := rfl

@[simp] theorem pack_cons (row : List Pixel) (g : PixelGrid) : pack (row :: g) = rowBytes row ++ pack g := rfl

@[simp] theorem pack_append (g f : PixelGrid) : pack (g ++ f) = pack g ++ pack f := List.flatMap_append

/-- Rows of one length pack into rows of one length. -/
theorem length_pack {w : Nat} {g : PixelGrid} (hg : ∀ r ∈ g, r.length = w) : (pack g).length = g.length * (3 * w + 1) := by
  induction g with
  | nil => simp
  | cons r g ih =>
    obtain ⟨hr, hrest⟩ := List.forall_mem_cons.mp hg
    rw [pack_cons, List.length_append, ih hrest, length_rowBytes, hr, List.length_cons]
    ring

/-- Byte `k` of row `y` stands behind the `y` packed rows above it. -/
theorem pack_get {w : Nat} {g : PixelGrid} (hg : ∀ r ∈ g, r.length = w) {y k : Nat} {row : List Pixel} (hy : g[y]? = some row)
    (hk : k < 3 * w + 1) : (pack g)[y * (3 * w + 1) + k]? = (rowBytes row)[k]? := by
  obtain ⟨hlt, rfl⟩ := List.getElem?_eq_some_iff.mp hy
  have habove : (pack (g.take y)).length = y * (3 * w + 1) := by
    rw [length_pack fun r hr => hg r (List.mem_of_mem_take hr), List.length_take_of_le hlt.le]
  have hsplit : pack g = pack (g.take y) ++ (rowBytes g[y] ++ pack (g.drop (y + 1))) := by
    rw [← pack_cons, List.getElem_cons_drop, ← pack_append, List.take_append_drop]
  rw [hsplit, List.getElem?_append_right (by omega), habove, Nat.add_sub_cancel_left,
    List.getElem?_append_left (by rw [length_rowBytes, hg _ (List.getElem_mem hlt)]; exact hk)]

/-- Settles O44: the rows above have one length, so a byte's place gives its row, and R100 the byte in the row. -/
theorem packLayout : Obligations.PackLayout := by
  intro g hg
  obtain ⟨-, -, hrows, -, -⟩ := (gridWellFormed_iff g).mp hg
  refine ⟨by rw [length_pack hrows, Nat.mul_comm 3], fun y k row hy hk => ?_⟩
  rw [pack_get hrows hy hk, rowBytes_get row k (by rwa [hrows row (List.mem_of_getElem? hy)])]

/-! ### The commands, one by one -/

/-- Settles O32: the only check of both commands is ACTIVE, and each writes its own register. -/
theorem setDimensions : Obligations.SetDimensions := by
  refine fun v s => ⟨decode_encode (.slpSetw v), decode_encode (.slpSeth v), fun hm ha => ?_, fun hm ha => ?_⟩ <;>
    rw [exec_eq, exec_eq]
  · have hf : firstFault (.slpSetw v) s = none ∧ firstFault (.slpSeth v) s = none := by simp [firstFault, ha]
    rw [after_answered hm hf.1, after_answered hm hf.2]
    exact ⟨rfl, rfl⟩
  · have hf : firstFault (.slpSetw v) s = some .protocol ∧ firstFault (.slpSeth v) s = some .protocol := by
      simp [firstFault, ha]
    rw [after_faulted .protocol hm hf.1, after_faulted .protocol hm hf.2]
    exact ⟨rfl, rfl⟩

/-- Settles O33: the three checks in R104's order, then the effect. -/
theorem beginStartsGrid : Obligations.BeginStartsGrid := by
  refine ⟨fun c => decode_ok_iff.trans eq_comm, fun s hm => ?_⟩
  rw [exec_eq]
  congr 1
  split_ifs with ha hd hl
  · exact after_faulted .protocol hm (by simp [firstFault, ha])
  · exact after_faulted .malformedInput hm (by simp [firstFault, dimensionZero, ha, hd])
  · exact after_faulted .capacity hm (by simp [firstFault, dimensionZero, gridTooLarge, packedSize, ha, hd, hl])
  · exact after_answered hm (by simp [firstFault, dimensionZero, gridTooLarge, packedSize, ha, hd, hl])

/-- Settles O34: the three checks in R105's order, then the effect, whose bytes are the pixel's behind the filter-type byte
of a new row. -/
theorem pixelIsAppended : Obligations.PixelIsAppended := by
  refine fun r g b s => ⟨decode_encode (.slpPix r g b), fun hm => ?_⟩
  have hbytes : s.slb ++ (if s.col = 0#32 then [0x00#8] else []) ++ [r, g, b] = memAppend s.slb (pixelAppend r g b s) := by
    simp [pixelAppend, rowUnopened, pixelBytes, Config.filterType]
  rw [exec_eq, hbytes]
  congr 1
  split_ifs with ha hr hc
  · exact after_faulted .protocol hm (by simp [firstFault, ha])
  · exact after_faulted .malformedInput hm (by simp [firstFault, rowsDone, ha, hr])
  · exact after_faulted .malformedInput hm (by simp [firstFault, rowsDone, rowFull, ha, hc])
  · exact after_answered hm (by simp [firstFault, rowsDone, rowFull, ha, hr, hc])

/-- Settles O35: the three checks in R106's order, then the effect. -/
theorem endOfRowCounts : Obligations.EndOfRowCounts := by
  refine ⟨fun c => decode_ok_iff.trans eq_comm, fun s hm => ?_⟩
  rw [exec_eq]
  congr 1
  split_ifs with ha hr hc
  · exact after_faulted .protocol hm (by simp [firstFault, ha])
  · exact after_faulted .malformedInput hm (by simp [firstFault, rowsDone, ha, hr])
  · exact after_faulted .malformedInput hm (by simp [firstFault, rowsDone, rowFull, ha, hc])
  · exact after_answered hm (by simp [firstFault, rowsDone, rowFull, ha, hr, not_not.mp hc])

/-- Settles O36: the three checks in R107's order, then the effect; with every row closed SLB has the length of the whole
grid. -/
theorem packEmitsBuffer : Obligations.PackEmitsBuffer := by
  refine ⟨fun c => decode_ok_iff.trans eq_comm, fun s hm => ?_, fun s h ha hr hc => ?_⟩
  · rw [exec_eq]
    congr 1
    split_ifs with ha hr hc
    · exact after_faulted .protocol hm (by simp [firstFault, ha])
    · exact after_faulted .malformedInput hm (by simp [firstFault, rowsDone, ha, hr])
    · exact after_faulted .malformedInput hm (by simp [firstFault, rowsDone, rowUnopened, ha, hc])
    · exact after_answered hm (by simp [firstFault, rowsDone, rowUnopened, ha, not_not.mp hr, not_not.mp hc])
  · simpa [hr, hc, openRowBytes] using (h.work ha).length

/-! ### SLB holds the packed rows so far (R100, R105 to R107) -/

/-- A further pixel adds its three bytes, behind the filter-type byte if it opens the row. -/
theorem openBytes_append (ps : List Pixel) (p : Pixel) :
    openBytes (ps ++ [p]) = openBytes ps ++ ((if ps = [] then [Config.filterType] else []) ++ pixelBytes p) := by
  by_cases h : ps = [] <;> simp [openBytes, rowBytes, h]

/-- No pixel of the open row has come exactly when COL is 0. -/
theorem PackedSoFar.opened_eq_nil_iff {s : State} {closed : PixelGrid} {opened : List Pixel}
    (h : PackedSoFar s closed opened) : opened = [] ↔ s.col = 0#32 := by
  rw [← List.length_eq_zero_iff, h.colCount]
  exact ⟨fun e => BitVec.eq_of_toNat_eq e, fun e => by simp [e]⟩

/-- A further pixel joins the open row (R105). -/
theorem PackedSoFar.pushPixel {s : State} {closed : PixelGrid} {opened : List Pixel} (h : PackedSoFar s closed opened)
    (hc : s.col.toNat < s.width.toNat) (r g b : Byte) :
    PackedSoFar (pushPixel (pixelAppend r g b s) s) closed (opened ++ [⟨r, g, b⟩]) where
  rowCount := h.rowCount
  rowsFull := h.rowsFull
  colCount := by simp [h.colCount, toNat_succ_of_lt hc]
  bytes := by simp [h.bytes, openBytes_append, pixelAppend, rowUnopened, h.opened_eq_nil_iff]

/-- A full row that is not empty is closed, and its bytes stay (R106). -/
theorem PackedSoFar.closeRow {s : State} {closed : PixelGrid} {opened : List Pixel} (h : PackedSoFar s closed opened)
    (hw : 1 ≤ s.width.toNat) (hr : s.row.toNat < s.height.toNat) (hc : s.col = s.width) :
    PackedSoFar (closeRow s) (closed ++ [opened]) [] where
  rowCount := by simp [h.rowCount, toNat_succ_of_lt hr]
  rowsFull := by
    intro row hrow
    rcases List.mem_append.mp hrow with hrow | hrow
    · exact h.rowsFull row hrow
    · rw [List.mem_singleton.mp hrow, h.colCount, hc]; rfl
  colCount := rfl
  bytes := by
    have hne : opened ≠ [] := List.length_pos_iff.mp (by rw [h.colCount, hc]; exact hw)
    simp [h.bytes, openBytes, hne]

/-- The packed rows so far are read off the packer alone. -/
theorem State.GridInv.of_samePacker {s t : State} (h : s.GridInv) (hp : SamePacker s t) : t.GridInv := by
  intro ha
  obtain ⟨hw, hr, hc, closed, opened, hrows, hfull, hcols, hbytes⟩ := h (hp.active ▸ ha)
  rw [hp.width, hp.height, hp.row, hp.col]
  refine ⟨hw, hr, hc, closed, opened, ?_⟩
  constructor <;> simpa only [hp.width, hp.row, hp.col, hp.slb]

/-- Without a grid there is nothing to hold. -/
theorem State.GridInv.of_inactive {s : State} (h : s.active = false) : s.GridInv := fun ha => by
  rw [h] at ha; cases ha

theorem State.GridInv.respond {s : State} (h : s.GridInv) (c : Byte) (d : List Byte) : (respond c d s).GridInv :=
  h.of_samePacker ⟨rfl, rfl, rfl, rfl, rfl, rfl⟩

theorem State.GridInv.setFault {s : State} (h : s.GridInv) (c : Byte) : (setFault c s).GridInv :=
  h.of_samePacker ⟨rfl, rfl, rfl, rfl, rfl, rfl⟩

theorem State.GridInv.setInputs {s : State} (h : s.GridInv) (xs : List HostInput) : (setInputs xs s).GridInv :=
  h.of_samePacker ⟨rfl, rfl, rfl, rfl, rfl, rfl⟩

/-- A command of no SLP and no SYS unit leaves the packer alone (R22). -/
theorem effect_samePacker {i : Instr} (hslp : i.unit ≠ .slp) (hsys : i.unit ≠ .sys) (s : State) :
    SamePacker s (effect i s) := by
  cases i with
  | slpSetw | slpSeth | slpBegin | slpPix | slpEor | slpPack => exact absurd rfl hslp
  | sysRst => exact absurd rfl hsys
  | _ => exact ⟨rfl, rfl, rfl, rfl, rfl, rfl⟩

/-- What a command writes when its checks pass keeps the packed rows so far. -/
theorem State.GridInv.effect {i : Instr} {s : State} (h : s.GridInv) (hf : firstFault i s = none) :
    (effect i s).GridInv := by
  cases i with
  | slpSetw w => exact .of_inactive (s := Machine.setWidth w s) (by simpa [firstFault] using hf)
  | slpSeth w => exact .of_inactive (s := Machine.setHeight w s) (by simpa [firstFault] using hf)
  | slpBegin =>
    obtain ⟨-, hd, hl⟩ := firstFault_slpBegin hf
    obtain ⟨hw, -, hr, hc, -⟩ := PackerAtWork.begin hd hl
    exact fun _ => ⟨hw, hr, hc, [], [], rfl, by simp, rfl, rfl⟩
  | slpPix r g b =>
    obtain ⟨ha, -, hne⟩ := firstFault_slpPix hf
    obtain ⟨hw, hr, hc, closed, opened, hp⟩ := h ha
    have hlt := toNat_lt_of_le_of_ne hc hne
    exact fun _ => ⟨hw, hr, (toNat_succ_of_lt hlt).trans_le hlt, closed, _, hp.pushPixel hlt r g b⟩
  | slpEor =>
    obtain ⟨ha, hne, hfull⟩ := firstFault_slpEor hf
    obtain ⟨hw, hr, -, closed, opened, hp⟩ := h ha
    have hlt := toNat_lt_of_le_of_ne hr hne
    exact fun _ => ⟨hw, (toNat_succ_of_lt hlt).trans_le hlt, Nat.zero_le _, _, [], hp.closeRow hw hlt hfull⟩
  | slpPack => exact .of_inactive rfl
  | sysRst => exact .of_inactive rfl
  | _ => exact h.of_samePacker (effect_samePacker (by simp [Instr.unit]) (by simp [Instr.unit]) s)

/-- Every command keeps the packed rows so far. -/
theorem State.GridInv.after {s : State} (h : s.GridInv) (i : Instr) : (after i s).GridInv := by
  rcases after_cases i s with ⟨-, -, e⟩ | ⟨c, -, -, -, e⟩ | ⟨-, hf, e⟩ <;> rw [e]
  · exact h.respond _ _
  · exact (h.setFault _).respond _ _
  · exact (h.effect hf).respond _ _

/-- Every word keeps the packed rows so far, an illegal one included. -/
theorem State.GridInv.afterWord {s : State} (h : s.GridInv) (c : Command) : (afterWord c s).GridInv := by
  cases hd : decode c with
  | ok i => rw [afterWord_ok hd]; exact h.after i
  | error e =>
    rcases mode_cases s with hm | hm
    · rw [afterWord_illegal hd hm]; exact (h.setFault _).respond _ _
    · rw [afterWord_fault hm (by simp [hd])]; exact h.respond _ _

/-- Settles O27: the step is a word, which keeps the packed rows so far, or a reset, after which there is no grid. -/
theorem stepKeepsGridInv : Obligations.StepKeepsGridInv := by
  intro s t h hs
  rcases step_cases hs with ⟨-, rfl⟩ | ⟨c, rest, -, rfl⟩ | ⟨rest, -, rfl⟩ | ⟨c, rest, -, rfl⟩
  · exact h
  · exact (h.setInputs rest).afterWord c
  · exact .of_inactive rfl
  · exact .of_inactive rfl

/-- What SLP.PACK finds when its checks pass is the packed form of a whole grid (R107). -/
theorem packed_grid_of_firstFault_slpPack {s : State} (h : s.Inv) (hg : s.GridInv) (hf : firstFault .slpPack s = none) :
    ∃ g : PixelGrid, gridWellFormed g = true ∧ gridWidth g = s.width.toNat ∧ g.length = s.height.toNat ∧ s.slb = pack g := by
  obtain ⟨ha, hr, hc⟩ := firstFault_slpPack hf
  obtain ⟨hw, -, -, closed, opened, hp⟩ := hg ha
  have hlen : closed.length = s.height.toNat := hr ▸ hp.rowCount
  have hslb : s.slb = pack closed := by simp [hp.bytes, hp.opened_eq_nil_iff.mpr hc, openBytes]
  cases closed with
  | nil => exact absurd (hlen ▸ (h.work ha).height) (by simp)
  | cons row rows =>
    have hwidth : gridWidth (row :: rows) = s.width.toNat := hp.rowsFull row (by simp)
    refine ⟨row :: rows, (gridWellFormed_iff _).mpr ⟨by simp, ?_, ?_, ?_, ?_⟩, hwidth, hlen, hslb⟩
    · rwa [hwidth]
    · rw [hwidth]; exact hp.rowsFull
    · rw [hlen]; exact s.height.isLt
    · rw [hwidth]; exact s.width.isLt

/-- No other SLP command emits anything (R107). -/
theorem emitted_slp {i : Instr} (hi : i.unit = .slp) (hp : i ≠ .slpPack) (s : State) : emitted i s = [] := by
  cases i with
  | slpSetw | slpSeth | slpBegin | slpPix | slpEor => rfl
  | slpPack => exact absurd rfl hp
  | _ => cases hi

/-- Settles O47: a completed SLP.PACK answers SLB, which is a whole packed grid; every other answer of an SLP command is
empty. -/
theorem packEmitsOnlyGrids : Obligations.PackEmitsOnlyGrids := by
  refine ⟨fun s t h hg _ he ht => ?_, fun i s t hi hp he => ?_⟩
  · obtain ⟨hf, rfl⟩ := exec_completed he ht
    obtain ⟨g, hwf, hw, hh, hslb⟩ := packed_grid_of_firstFault_slpPack h hg hf
    exact ⟨g, hwf, hw, hh, by rw [respond_rsp, effect_rsp, emitted, hslb]⟩
  · rw [exec_eq] at he
    cases he
    rcases after_cases i s with ⟨-, -, e⟩ | ⟨c, -, -, -, e⟩ | ⟨-, -, e⟩ <;> rw [e, lastResponse_respond]
    exact emitted_slp hi hp s

/-! ### The canonical sequence of a grid (R108) -/

/-- The dimensions of a grid, while none is active. -/
theorem afterAll_dimensions {s : State} (w h : Word) (hm : s.mode = .run) (ha : s.active = false) :
    afterAll [.slpSetw w, .slpSeth h] s =
      { s with width := w, height := h, rsp := s.rsp ++ List.replicate 2 ⟨0x00#8, []⟩ } := by
  rw [afterAll_cons, after_answered hm (by simp [firstFault, ha]), afterAll_cons,
    after_answered (by exact hm) (by simp [firstFault, answered, effect, ha]), afterAll_nil]
  simp [answered, effect, emitted, setWidth, setHeight, List.replicate]

section

variable {s : State} {w h : Word} (hm : s.mode = .run) (ha : s.active = false) (hw : 1 ≤ w.toNat) (hh : 1 ≤ h.toNat)
  (hf : packedSize w h ≤ s.cfg.slbCap)

include hm ha hw hh hf

/-- SLP.GRID starts a grid that is not empty and fits. -/
theorem afterAll_slpGrid :
    afterAll (expand (.slpGrid w h)) s = { s with
      width := w
      height := h
      row := 0#32
      col := 0#32
      slb := []
      active := true
      rsp := s.rsp ++ List.replicate 3 ⟨0x00#8, []⟩ } := by
  have hw0 : w ≠ 0#32 := fun e => by simp [e] at hw
  have hh0 : h ≠ 0#32 := fun e => by simp [e] at hh
  have hsplit : expand (.slpGrid w h) = [.slpSetw w, .slpSeth h] ++ [.slpBegin] := rfl
  rw [hsplit, afterAll_append, afterAll_dimensions w h hm ha, afterAll_cons,
    after_answered (by exact hm) (by simp [firstFault, dimensionZero, gridTooLarge, ha, hw0, hh0, hf]), afterAll_nil]
  simp [answered, effect, emitted, setGrid, List.replicate]

/-- A grid that is started and rows of its width, no more than its height: SLB holds their packed form. -/
theorem afterAll_gridRows {g : PixelGrid} (hg : ∀ r ∈ g, r.length = w.toNat) (hl : g.length ≤ h.toNat) :
    afterAll (expand (.slpGrid w h) ++ g.flatMap rowCommands) s = { s with
      width := w
      height := h
      row := BitVec.ofNat 32 g.length
      col := 0#32
      slb := pack g
      active := true
      rsp := s.rsp ++ List.replicate (expand (.slpGrid w h) ++ g.flatMap rowCommands).length ⟨0x00#8, []⟩ } := by
  rw [afterAll_append, afterAll_slpGrid hm ha hw hh hf,
    afterAll_rows g _ (by exact hm) rfl rfl (by exact hg) (by exact hw) (by simpa using hl), List.length_append,
    ← List.replicate_append_replicate]
  simp [expand]

end

/-- The canonical sequence up to SLP.PACK: every row is closed, and SLB holds the whole packed grid. -/
theorem afterAll_beforePack {g : PixelGrid} {s : State} (hg : gridWellFormed g = true)
    (hf : packedSize (widthWord g) (heightWord g) ≤ s.cfg.slbCap) (hm : s.mode = .run) (ha : s.active = false) :
    afterAll (expand (.slpGrid (widthWord g) (heightWord g)) ++ g.flatMap rowCommands) s = { s with
      width := widthWord g
      height := heightWord g
      row := heightWord g
      col := 0#32
      slb := pack g
      active := true
      rsp := s.rsp ++ List.replicate ((packCommands g).length - 1) ⟨0x00#8, []⟩ } := by
  obtain ⟨hne, hw1, hrows, hh, hw⟩ := (gridWellFormed_iff g).mp hg
  have hwidth : (widthWord g).toNat = gridWidth g := Nat.mod_eq_of_lt hw
  have hheight : (heightWord g).toNat = g.length := Nat.mod_eq_of_lt hh
  rw [afterAll_gridRows hm ha (hwidth ▸ hw1) (hheight ▸ List.length_pos_iff.mpr hne) hf (hwidth ▸ hrows) hheight.ge]
  simp [packCommands, heightWord]

/-- Settles O45: with every row closed SLP.PACK passes its checks and answers SLB. -/
theorem canonicalGridPacks : Obligations.CanonicalGridPacks := by
  intro g s hg hf hm ha
  rw [execAll_eq, packCommands, afterAll_append, afterAll_beforePack hg hf hm ha, afterAll_cons,
    after_answered (by exact hm) (by simp [firstFault, rowsDone, rowUnopened]), afterAll_nil]
  simp [answered, effect, emitted, setGrid, packCommands]

/-! ### Other units' commands between (R108) -/

/-- The SLP commands' checks read the packer and SLB_CAP alone (R22). -/
theorem SamePacker.firstFault {s s' : State} (h : SamePacker s s') (hc : s'.cfg = s.cfg) {i : Instr} (hi : i.unit = .slp) :
    firstFault i s' = firstFault i s := by
  obtain ⟨hw, hh, hr, hcol, ha, -⟩ := h
  cases i with
  | slpSetw | slpSeth | slpBegin | slpPix | slpEor | slpPack =>
    simp [Machine.firstFault, dimensionZero, gridTooLarge, rowsDone, rowFull, rowUnopened, *]
  | _ => cases hi

/-- The SLP commands write the packer from the packer alone (R22). -/
theorem SamePacker.effect {s s' : State} (h : SamePacker s s') {i : Instr} (hi : i.unit = .slp) :
    SamePacker (effect i s) (effect i s') := by
  obtain ⟨hw, hh, hr, hcol, ha, hs⟩ := h
  cases i with
  | slpSetw w => exact ⟨rfl, hh, hr, hcol, ha, hs⟩
  | slpSeth w => exact ⟨hw, rfl, hr, hcol, ha, hs⟩
  | slpBegin => exact ⟨hw, hh, rfl, rfl, rfl, rfl⟩
  | slpPix r g b => constructor <;> simp [Machine.effect, pixelAppend, rowUnopened, *]
  | slpEor => constructor <;> simp [Machine.effect, *]
  | slpPack => exact ⟨hw, hh, rfl, rfl, rfl, rfl⟩
  | _ => cases hi

/-- Responses are no part of the packer. -/
theorem SamePacker.respond {s s' : State} (h : SamePacker s s') (c c' : Byte) (d d' : List Byte) :
    SamePacker (respond c d s) (respond c' d' s') :=
  ⟨h.width, h.height, h.row, h.col, h.active, h.slb⟩

/-- An SLP command that completes completes in every state of the same packer, and leaves the same packer. -/
theorem SamePacker.after_slp {s s' : State} (h : SamePacker s s') (hc : s'.cfg = s.cfg) (hm : s'.mode = .run) {i : Instr}
    (hi : i.unit = .slp) (hrun : (after i s).mode = .run) :
    (after i s').mode = .run ∧ SamePacker (after i s) (after i s') := by
  obtain ⟨-, hf, e⟩ := after_completed hrun
  have hne : i ≠ .sysRst := fun e => by rw [e] at hi; cases hi
  rw [e, after_run hm ((h.firstFault hc hi).trans hf)]
  exact ⟨(effect_mode hne s').1.trans hm, (h.effect hi).respond _ _ _ _⟩

/-- A command of another unit that completes leaves the packer alone. -/
theorem SamePacker.after_other {s s' : State} (h : SamePacker s s') {i : Instr} (hslp : i.unit ≠ .slp) (hsys : i.unit ≠ .sys)
    (hrun : (after i s).mode = .run) : SamePacker (after i s) s' := by
  obtain ⟨-, -, e⟩ := after_completed hrun
  obtain ⟨hw, hh, hr, hc, ha, hs⟩ := effect_samePacker hslp hsys s
  rw [e]
  exact ⟨h.width.trans hw.symm, h.height.trans hh.symm, h.row.trans hr.symm, h.col.trans hc.symm, h.active.trans ha.symm,
    h.slb.trans hs.symm⟩

theorem ne_sysRst_of_unit {i : Instr} (h : i.unit ≠ .sys) : i ≠ .sysRst := fun e => h (by rw [e]; rfl)

/-- A completed sequence without SYS commands leaves the packer that its SLP commands leave by themselves, from any state of
the same packer in RUN mode. -/
theorem SamePacker.afterAll_filter {cs : List Instr} {s s' : State} (h : SamePacker s s') (hc : s'.cfg = s.cfg)
    (hm : s'.mode = .run) (hsys : ∀ i ∈ cs, i.unit ≠ .sys) (hrun : (afterAll cs s).mode = .run) :
    SamePacker (afterAll cs s) (afterAll (cs.filter fun i => i.unit == .slp) s') := by
  induction cs generalizing s s' with
  | nil => exact h
  | cons i cs ih =>
    obtain ⟨hi, hcs⟩ := List.forall_mem_cons.mp hsys
    have hrun1 : (after i s).mode = .run := afterAll_run hrun fun j hj => ne_sysRst_of_unit (hcs j hj)
    rw [afterAll_cons]
    by_cases hslp : i.unit = .slp
    · obtain ⟨hm1, h1⟩ := h.after_slp hc hm hslp hrun1
      rw [List.filter_cons_of_pos (by simpa using hslp), afterAll_cons]
      exact ih h1 (by simpa using hc) hm1 hcs hrun
    · rw [List.filter_cons_of_neg (by simpa using hslp)]
      exact ih (h.after_other hslp hi hrun1) (by simpa using hc) hm hcs hrun

/-- A command that is last among those of a filter splits the list before it. -/
theorem exists_split_of_filter {p : Instr → Bool} {cs pre : List Instr} {i : Instr} (h : cs.filter p = pre ++ [i]) :
    ∃ before later, cs = before ++ i :: later ∧ before.filter p = pre := by
  obtain ⟨l, l', rfl, hl, hl'⟩ := List.filter_eq_append_iff.mp h
  obtain ⟨m, later, rfl, hm, -, -⟩ := List.filter_eq_cons_iff.mp hl'
  exact ⟨l ++ m, later, by simp, by rw [List.filter_append, hl, List.filter_eq_nil_iff.mpr hm, List.append_nil]⟩

/-- Settles O46: up to SLP.PACK the packer is as the canonical sequence alone leaves it, and SLP.PACK answers SLB. -/
theorem gridPacksUnderInterleaving : Obligations.GridPacksUnderInterleaving := by
  intro g cs s t hg hf hm ha hcs hsys he ht
  obtain ⟨before, later, rfl, hbefore⟩ := exists_split_of_filter hcs
  rw [execAll_eq] at he
  cases he
  rw [afterAll_append, afterAll_cons] at ht
  have hpack : (after .slpPack (afterAll before s)).mode = .run :=
    afterAll_run ht fun j hj => ne_sysRst_of_unit (hsys j (by simp [hj]))
  obtain ⟨hrun, -, e⟩ := after_completed hpack
  have hp : SamePacker s s := ⟨rfl, rfl, rfl, rfl, rfl, rfl⟩
  have hslb := (hp.afterAll_filter rfl hm (fun i hi => hsys i (by simp [hi])) (hrun.resolve_right (by simp))).slb
  rw [hbefore, afterAll_beforePack hg hf hm ha] at hslb
  refine ⟨before, later, _, _, rfl, execAll_eq _ _, exec_eq _ _, ?_⟩
  rw [e, respond_rsp, effect_rsp, emitted, ← hslb]

/-! ### A malformed grid (R109) -/

/-- SLP commands that leave the CORE in RUN mode let a careful host go on to the next ones. -/
theorem issue_append_of_run {cs ds : List Instr} {s u : State} {c : Byte} (hcs : ∀ i ∈ cs, i.unit = .slp)
    (hm : (afterAll cs s).mode = .run) (h : issue ds (afterAll cs s) = .failed c u) : issue (cs ++ ds) s = .failed c u := by
  obtain ⟨rs, -, e⟩ := issue_ok cs s (fun i hi => ne_sysRst_of_unit (by simp [hcs i hi])) hm
  simp [issue_append, e, h]

/-- The first command that raises a fault is the last that a careful host issues (R150). -/
theorem issue_raises {cs ds : List Instr} {i : Instr} {s : State} {c : FaultCode} (hcs : ∀ i ∈ cs, i.unit = .slp)
    (hm : (afterAll cs s).mode = .run) (hf : firstFault i (afterAll cs s) = some c) :
    ∃ u, issue (cs ++ i :: ds) s = .failed (faultCode c) u :=
  ⟨_, issue_append_of_run hcs hm (issue_cons_failed (after_raise hm hf) (faultCode_ne_ok c))⟩

theorem unit_of_mem_pixels {ps : List Pixel} : ∀ i ∈ ps.map pixelCommand, i.unit = .slp := by
  simp [pixelCommand, Instr.unit]

theorem unit_of_mem_rows {g : PixelGrid} : ∀ i ∈ g.flatMap rowCommands, i.unit = .slp := by
  intro i hi
  obtain ⟨row, -, hi⟩ := List.mem_flatMap.mp hi
  rcases List.mem_append.mp hi with hi | hi
  · exact unit_of_mem_pixels i hi
  · rw [List.mem_singleton.mp hi]; rfl

theorem unit_of_mem_gridRows {w h : Word} {g : PixelGrid} :
    ∀ i ∈ expand (.slpGrid w h) ++ g.flatMap rowCommands, i.unit = .slp := by
  intro i hi
  rcases List.mem_append.mp hi with hi | hi
  · simp only [expand, List.mem_cons, List.not_mem_nil, or_false] at hi
    rcases hi with rfl | rfl | rfl <;> rfl
  · exact unit_of_mem_rows i hi

/-- SLP.BEGIN refuses a dimension that is 0, whatever the capacity (R104). -/
theorem issue_zero_dimension {s : State} {w h : Word} (hm : s.mode = .run) (ha : s.active = false) (h0 : w = 0#32 ∨ h = 0#32)
    (ds : List Instr) : ∃ u, issue (expand (.slpGrid w h) ++ ds) s = .failed (faultCode .malformedInput) u := by
  have e := afterAll_dimensions w h hm ha
  exact issue_raises (cs := [.slpSetw w, .slpSeth h]) (i := .slpBegin) (by simp [Instr.unit]) (by rw [e]; exact hm)
    (by rw [e]; simp [firstFault, dimensionZero, ha, h0])

section

variable {row : List Pixel} {s : State} (hm : s.mode = .run) (ha : s.active = true) (hr : s.row ≠ s.height)
  (hc : s.col = 0#32)

include hm ha hr hc

/-- A short row, or an empty one, is refused at SLP.EOR (R106). -/
theorem issue_short_row (hw : row.length < s.width.toNat) (ds : List Instr) :
    ∃ u, issue (rowCommands row ++ ds) s = .failed (faultCode .malformedInput) u := by
  have e := afterAll_pixels row s hm ha hr (by rw [hc]; simpa using hw.le)
  have hcol : s.col + BitVec.ofNat 32 row.length ≠ s.width := fun hfull => by
    rw [hc, BitVec.zero_add] at hfull
    rw [← hfull, BitVec.toNat_ofNat] at hw
    exact absurd (Nat.mod_le _ _) hw.not_ge
  rw [rowCommands, List.append_assoc]
  exact issue_raises unit_of_mem_pixels (by rw [e]; exact hm) (by rw [e]; simp [firstFault, rowFull, ha, hcol])

/-- A long row is refused at its first pixel too many (R105). -/
theorem issue_long_row (hw : s.width.toNat < row.length) (ds : List Instr) :
    ∃ u, issue (rowCommands row ++ ds) s = .failed (faultCode .malformedInput) u := by
  have hlen : (row.take s.width.toNat).length = s.width.toNat := List.length_take_of_le hw.le
  have e := afterAll_pixels (row.take s.width.toNat) s hm ha hr (by rw [hc, hlen]; simp)
  rw [rowCommands, ← List.take_append_drop s.width.toNat row, List.drop_eq_getElem_cons hw, List.map_append, List.map_cons,
    List.append_assoc, List.append_assoc]
  exact issue_raises unit_of_mem_pixels (by rw [e]; exact hm)
    (by rw [e]; simp [pixelCommand, firstFault, rowFull, ha, hc, hlen])

end

/-- Rows of the set width and then one of another width (R109). -/
theorem issue_ragged {s : State} {w h : Word} {good : PixelGrid} {bad : List Pixel} (hm : s.mode = .run)
    (ha : s.active = false) (hw : 1 ≤ w.toNat) (hf : packedSize w h ≤ s.cfg.slbCap)
    (hgood : ∀ r ∈ good, r.length = w.toNat) (hbad : bad.length ≠ w.toNat) (hl : good.length < h.toNat) (ds : List Instr) :
    ∃ u, issue (expand (.slpGrid w h) ++ good.flatMap rowCommands ++ (rowCommands bad ++ ds)) s =
      .failed (faultCode .malformedInput) u := by
  have e := afterAll_gridRows hm ha hw (Nat.one_le_of_lt hl) hf hgood hl.le
  have hrow : BitVec.ofNat 32 good.length ≠ h := fun hdone => by
    rw [← hdone, BitVec.toNat_ofNat] at hl
    exact absurd (Nat.mod_le _ _) hl.not_ge
  obtain ⟨u, hu⟩ : ∃ u, issue (rowCommands bad ++ ds) (afterAll (expand (.slpGrid w h) ++ good.flatMap rowCommands) s) =
      .failed (faultCode .malformedInput) u := by
    rw [e]
    rcases Nat.lt_or_gt_of_ne hbad with hshort | hlong
    · exact issue_short_row (by exact hm) rfl hrow rfl hshort ds
    · exact issue_long_row (by exact hm) rfl hrow rfl hlong ds
  exact ⟨u, issue_append_of_run unit_of_mem_gridRows (by rw [e]; exact hm) hu⟩

/-- The first row of a malformed grid that has not the width of the first. -/
theorem exists_bad_row {g : PixelGrid} (hg : gridWellFormed g = false) (hl : g.length < 2 ^ 32) (hw : gridWidth g < 2 ^ 32)
    (h0 : gridWidth g ≠ 0) :
    ∃ good bad rest, g = good ++ bad :: rest ∧ (∀ r ∈ good, r.length = gridWidth g) ∧ bad.length ≠ gridWidth g := by
  have hbad : ∃ r ∈ g, decide (r.length ≠ gridWidth g) = true := by
    by_contra hno
    have hne : g ≠ [] := fun e => h0 (by rw [e]; rfl)
    have hrows : ∀ r ∈ g, r.length = gridWidth g := by simpa using hno
    rw [(gridWellFormed_iff g).mpr ⟨hne, Nat.pos_of_ne_zero h0, hrows, hl, hw⟩] at hg
    cases hg
  obtain ⟨bad, hfind⟩ := Option.isSome_iff_exists.mp (List.find?_isSome.mpr hbad)
  obtain ⟨hlen, good, rest, e, hgood⟩ := List.find?_eq_some_iff_append.mp hfind
  exact ⟨good, bad, rest, e, by simpa using hgood, by simpa using hlen⟩

/-- The canonical sequence of a malformed grid raises MALFORMED_INPUT: at SLP.BEGIN if a dimension is 0, else in the first row
of another width. -/
theorem issue_malformed {g : PixelGrid} {s : State} (hg : gridWellFormed g = false) (hl : g.length < 2 ^ 32)
    (hw : gridWidth g < 2 ^ 32) (hf : gridWidth g = 0 ∨ packedSize (widthWord g) (heightWord g) ≤ s.cfg.slbCap)
    (hm : s.mode = .run) (ha : s.active = false) :
    ∃ u, issue (packCommands g) s = .failed (faultCode .malformedInput) u := by
  by_cases h0 : gridWidth g = 0
  · rw [packCommands, List.append_assoc]
    exact issue_zero_dimension hm ha (.inl (by rw [widthWord, h0])) _
  · have hwidth : (widthWord g).toNat = gridWidth g := Nat.mod_eq_of_lt hw
    have hheight : (heightWord g).toNat = g.length := Nat.mod_eq_of_lt hl
    obtain ⟨good, bad, rest, e, hgood, hbad⟩ := exists_bad_row hg hl hw h0
    have hlt : good.length < g.length := by rw [e]; simp
    have hrows : g.flatMap rowCommands = good.flatMap rowCommands ++ (rowCommands bad ++ rest.flatMap rowCommands) := by
      rw [e, List.flatMap_append, List.flatMap_cons]
    have hfail := issue_ragged hm ha (hwidth ▸ Nat.pos_of_ne_zero h0) (hf.resolve_left h0) (hwidth ▸ hgood) (hwidth ▸ hbad)
      (hheight ▸ hlt) (rest.flatMap rowCommands ++ [.slpPack])
    simpa only [packCommands, hrows, List.append_assoc] using hfail

/-- Abandoning an image leaves the reset state (R150, R169). -/
theorem abandon_eq (e : HostError) (s : State) : abandon e s = (.error e, respond 0x00#8 [] (resetItems s)) := by
  simp [abandon, exec_eq, after_sysRst]

/-- Settles O59: after SYS.RST the canonical sequence ends in MALFORMED_INPUT, and the host abandons the image. -/
theorem malformedGridGivesNoImage : Obligations.MalformedGridGivesNoImage := by
  intro compress g s hg hl hw hf
  obtain ⟨u, hu⟩ := issue_malformed (s := respond 0x00#8 [] (resetItems s)) hg hl hw hf rfl rfl
  refine ⟨respond 0x00#8 [] (resetItems u), ?_, ⟨rfl, rfl, rfl, rfl, rfl, rfl, rfl, rfl, rfl, rfl⟩⟩
  rw [encodeImage, if_pos ⟨hl, hw⟩, issue_cons_ok (after_sysRst s), hu]
  exact abandon_eq .malformedInput u

end Sys2Proof.Machine
end

section
/-! PROOFS. Family `43_chb`: the layout of a chunk (R120), the CHB commands one by one (R121 to R123, R126), the canonical
sequence of a payload (R124, R195), and every chunk the CORE emits (R99, R125). -/

namespace Sys2Proof.Machine

/-! ### The layout of a chunk (R120) -/

@[simp] theorem length_lengthField (p : List Byte) : (lengthField p).length = 4 := rfl

/-- The length field reads back as the number of payload bytes, as long as 32 bits hold it. -/
theorem unbew_lengthField {p : List Byte} (hp : p.length ≤ 2 ^ 32 - 1) :
    (unbew (lengthField p)).map BitVec.toNat = some p.length := by
  have hmod : p.length % 2 ^ 32 = p.length := Nat.mod_eq_of_lt (Nat.lt_of_le_pred (by decide) hp)
  rw [lengthField, unbew_bew, Option.map_some, BitVec.toNat_ofNat, hmod]

section

variable (t : Word) (p : List Byte)

/-- A chunk opens with its length field. -/
theorem take_four_chunk : (chunk t p).take 4 = lengthField p := by
  rw [chunk, List.append_assoc, List.append_assoc, List.take_left' (length_lengthField p)]

/-- Behind the length field: what the checksum covers, and the checksum. -/
theorem drop_four_chunk : (chunk t p).drop 4 = (bew t ++ p) ++ bew (crc32 (bew t ++ p)) := by
  rw [chunk, List.append_assoc (lengthField p), List.append_assoc, List.drop_left' (length_lengthField p)]

/-- Behind the length field and the tag: the payload and the checksum. -/
theorem drop_eight_chunk : (chunk t p).drop 8 = p ++ bew (crc32 (bew t ++ p)) := by
  rw [← List.drop_drop (i := 4) (j := 4), drop_four_chunk, List.append_assoc, List.drop_left' (length_bew t)]

/-- A chunk closes with its checksum. -/
theorem drop_payload_chunk : (chunk t p).drop (8 + p.length) = bew (crc32 (bew t ++ p)) := by
  rw [← List.drop_drop, drop_eight_chunk, List.drop_left]

/-- The bytes between the length field and the checksum are those the checksum covers. -/
theorem covered_chunk : ((chunk t p).drop 4).take (4 + p.length) = bew t ++ p := by
  rw [drop_four_chunk, List.take_left' (by simp)]

end

/-- Settles O48: the four parts of a chunk, each behind the ones before it. -/
theorem chunkLayout : Obligations.ChunkLayout := by
  refine fun t p hp => ⟨length_chunk t p, ?_, ?_, ?_, drop_payload_chunk t p⟩
  · rw [take_four_chunk, unbew_lengthField hp]
  · rw [drop_four_chunk, List.append_assoc, List.take_left' (length_bew t)]
  · rw [drop_eight_chunk, List.take_left]

/-! ### The commands, one by one -/

/-- A push of the bytes `bs` in RUN mode: all of them or none (R121, R122). -/
theorem after_push {i : Instr} {bs : List Byte} {s : State} (hm : s.mode = .run)
    (hf : firstFault i s = if payloadFull bs.length s then some .capacity else none)
    (he : effect i s = pushPayload bs s) (hd : emitted i s = []) :
    after i s =
      if s.pb.length + bs.length > s.cfg.pbCap then faulted .capacity s else answered [] { s with pb := s.pb ++ bs } := by
  split_ifs with hfull
  · exact after_faulted .capacity hm (by simp [hf, payloadFull, hfull])
  · rw [after_answered hm (by simp [hf, payloadFull, hfull]), he, hd, pushPayload, memAppend_eq]

/-- CHB.BUILD in RUN mode, whatever the tag and the payload (R123, R126). -/
theorem after_chbBuild {s : State} (t : Word) (hm : s.mode = .run) :
    after (.chbBuild t) s = answered (chunk t s.pb) { s with acc := crcAcc (bew t ++ s.pb), pb := [] } :=
  after_answered hm rfl

/-- Settles O37: the two commands are pushes of 1 and of 4 bytes, each with its own word. -/
theorem pushesAppend : Obligations.PushesAppend := by
  refine fun b w s => ⟨decode_encode (.chbPushb b), decode_encode (.chbPushw w), fun hm => ?_⟩
  rw [exec_eq, exec_eq, after_push (bs := [b]) hm rfl rfl rfl, after_push (bs := bew w) hm rfl rfl rfl]
  exact ⟨rfl, rfl⟩

/-- Settles O38: CHB.BUILD has no check, and the checksum's accumulator is what it leaves in ACC. -/
theorem buildEmitsChunk : Obligations.BuildEmitsChunk := by
  refine fun t s => ⟨decode_encode (.chbBuild t), fun hm => ?_⟩
  rw [exec_eq, after_chbBuild t hm]
  rfl

/-! ### Sequences (R124, R195) -/

/-- Settles O51: the pushes leave PB followed by the payload, and CHB.BUILD answers the chunk of that. -/
theorem canonicalPayloadBuilds : Obligations.CanonicalPayloadBuilds := by
  intro t p s hm hc
  rw [execAll_eq, chunkCommands, afterAll_append, afterAll_pushes p s hm hc, afterAll_cons, after_chbBuild t (by exact hm),
    afterAll_nil]
  rfl

/-! ### Every chunk the CORE emits (R99, R125) -/

/-- A payload within PB_CAP has a length that 32 bits hold (R5, R33). -/
theorem State.Inv.length_pb_le {s : State} (h : s.Inv) : s.pb.length ≤ 2 ^ 32 - 1 := by
  have hlegal := h.capacities
  simp only [Config.legal, Bool.and_eq_true, decide_eq_true_eq] at hlegal
  obtain ⟨⟨-, hcap⟩, -⟩ := hlegal
  exact h.payload.trans hcap

/-- Settles O49: the data is the chunk of PB, and PB is short enough for its length field. -/
theorem everyBuiltChunkIsSound : Obligations.EveryBuiltChunkIsSound := by
  intro t s u h hm he
  rw [exec_eq, after_chbBuild t hm] at he
  cases he
  have hpayload : (chunk t s.pb).length - 12 = s.pb.length := by rw [length_chunk]; omega
  have hcovered : (chunk t s.pb).length - 8 = 4 + s.pb.length := by rw [length_chunk]; omega
  have hchecksum : (chunk t s.pb).length - 4 = 8 + s.pb.length := by rw [length_chunk]; omega
  refine ⟨chunk t s.pb, rfl, by rw [length_chunk]; omega, ?_, ?_⟩
  · rw [take_four_chunk, unbew_lengthField h.length_pb_le, hpayload]
  · rw [hchecksum, hcovered, drop_payload_chunk, covered_chunk]

end Sys2Proof.Machine
end

section
/-! PROOFS. Family `44_sys`: SYS.RST (R130), and a CORE after it beside a CORE after the reset input (R131). The two states
differ in the response log alone, and no step looks at the log: whatever follows adds the same responses to both logs. -/

namespace Sys2Proof.Machine

/-- The word of SYS.RST (R130). -/
theorem decode_sysRst : decode 0xF000000000#40 = .ok .sysRst := decode_encode .sysRst

/-- Settles O39: the word is the command's own, and SYS.RST has no check and no second branch for FAULT mode. -/
theorem sysRstResets : Obligations.SysRstResets := by
  refine ⟨fun c => decode_ok_iff.trans eq_comm, fun s => ?_⟩
  rw [exec_eq, after_sysRst]
  rfl

/-! ### The response log is only written (R35) -/

/-- `s` with another response log. -/
def withLog (log : List Response) (s : State) : State := { s with rsp := log }

/-- The log is no item. -/
theorem sameItems_withLog (log : List Response) (s : State) : SameItems s (withLog log s) :=
  sameItems_inEnvironmentOf s (withLog log s)

/-- A word adds the same response to any log, and leaves the same beside the log. -/
theorem afterWord_withLog (c : Command) (log : List Response) (s : State) :
    ∃ r, (afterWord c s).rsp = s.rsp ++ [r] ∧ afterWord c (withLog log s) = withLog (log ++ [r]) (afterWord c s) := by
  obtain ⟨k, d, t, e, hr, e'⟩ := afterWord_inEnvironmentOf c s (withLog log s)
  have hi : t.inputs = s.inputs := by rw [← afterWord_inputs c s, e, respond_inputs]
  have hf : t.freeUses = s.freeUses := by rw [← afterWord_freeUses c s, e, respond_freeUses]
  have ht : inEnvironmentOf t (withLog log s) = withLog log t := by simp [inEnvironmentOf, withLog, hi, hf]
  refine ⟨⟨k, d⟩, by rw [e, respond_rsp, hr], ?_⟩
  calc afterWord c (withLog log s)
      = respond k d (inEnvironmentOf t (withLog log s)) := e'
    _ = withLog (log ++ [⟨k, d⟩]) (respond k d t) := by rw [ht]; rfl
    _ = withLog (log ++ [⟨k, d⟩]) (afterWord c s) := by rw [e]

/-- So the data a word would emit does not depend on the log. -/
theorem dataOf_withLog (c : Command) (log : List Response) (s : State) : dataOf c (withLog log s) = dataOf c s := by
  obtain ⟨r, hr, e⟩ := afterWord_withLog c log s
  rw [dataOf_eq hr]
  exact dataOf_eq (by rw [e]; rfl)

/-- A command cut short adds the same responses to any log: the free response is drawn with a counter that is no part of the
log (U3; log entry 5). -/
theorem cutShort_withLog (c : Command) (log : List Response) (s : State) :
    ∃ d, (cutShort c s).rsp = s.rsp ++ d ∧ cutShort c (withLog log s) = withLog (log ++ d) (cutShort c s) := by
  have hfree : (withLog log s).freeUses = s.freeUses := rfl
  unfold cutShort
  rw [dataOf_withLog, hfree]
  cases Config.cutResponse s.freeUses with
  | none => exact ⟨[], (List.append_nil _).symm, by rw [List.append_nil]; rfl⟩
  | some cut => exact ⟨[⟨cut.1, (dataOf c s).take cut.2⟩], rfl, rfl⟩

/-- A step adds the same responses to any log, and leaves the same beside the log. -/
theorem step_withLog {s t : State} (h : step s = .next t) (log : List Response) :
    ∃ d, t.rsp = s.rsp ++ d ∧ step (withLog log s) = .next (withLog (log ++ d) t) := by
  rcases step_cases h with ⟨hx, rfl⟩ | ⟨c, rest, hx, rfl⟩ | ⟨rest, hx, rfl⟩ | ⟨c, rest, hx, rfl⟩
  · exact ⟨[], (List.append_nil _).symm, by rw [List.append_nil]; exact step_idle hx⟩
  · obtain ⟨r, hr, e⟩ := afterWord_withLog c log (setInputs rest s)
    exact ⟨[r], hr, e ▸ step_word hx⟩
  · exact ⟨[], (List.append_nil _).symm, by rw [List.append_nil]; exact step_resetInput hx⟩
  · obtain ⟨d, hd, e⟩ := cutShort_withLog c log (setInputs rest s)
    exact ⟨d, hd, e ▸ step_resetDuring hx⟩

/-- So does a run. -/
theorem runSteps_withLog {k : Nat} {s t : State} (h : runSteps k s = .next t) (log : List Response) :
    ∃ d, t.rsp = s.rsp ++ d ∧ runSteps k (withLog log s) = .next (withLog (log ++ d) t) := by
  induction k generalizing s log with
  | zero => cases h; exact ⟨[], (List.append_nil _).symm, by rw [List.append_nil]; rfl⟩
  | succ k ih =>
    obtain ⟨v, hstep, hrun⟩ := runSteps_next h
    obtain ⟨d, hd, e⟩ := step_withLog hstep log
    obtain ⟨d', hd', e'⟩ := ih hrun (log ++ d)
    refine ⟨d ++ d', by rw [hd', hd, List.append_assoc], ?_⟩
    rw [runSteps_succ e, e', List.append_assoc]

/-! ### The two resets (R131) -/

/-- Settles O40: the reset input leaves what SYS.RST leaves but for the response, and two runs that differ in the log alone
stay so. -/
theorem resetsAreIndistinguishable : Obligations.ResetsAreIndistinguishable := by
  intro s t u xs ht hu
  have hu' : u = withLog s.rsp t := by
    rw [step_word rfl, afterWord_ok decode_sysRst, after_sysRst] at ht
    rw [step_resetInput rfl] at hu
    cases ht
    cases hu
    rfl
  subst hu'
  refine ⟨sameItems_withLog _ _, fun k t' hk => ?_⟩
  obtain ⟨d, hd, e⟩ := runSteps_withLog hk s.rsp
  exact ⟨_, d, e, sameItems_withLog _ _, hd, rfl⟩

end Sys2Proof.Machine
end

section
/-! PROOFS. Family `45_container_sequence`: the layout of an EncodedImage (R148), the canonical host sequence from SYS.RST to
the end chunk (R149), and a host's check of components in integers (R151, R163). -/

namespace Sys2Proof.Machine

/-! ### A chunk within a byte stream (R120, R148) -/

section

variable {img rest p : List Byte} {t : Word} {k : Nat} (h : img.drop k = chunk t p ++ rest)

include h

/-- The length field is where the chunk starts. -/
theorem take_length_of_drop_eq_chunk : (img.drop k).take 4 = lengthField p := by
  rw [h, List.take_append_of_le_length (by rw [length_chunk]; omega), take_four_chunk]

/-- The bytes the checksum covers stand behind the length field, and the checksum behind them. -/
theorem drop_covered_of_drop_eq_chunk : img.drop (k + 4) = (bew t ++ p) ++ (bew (crc32 (bew t ++ p)) ++ rest) := by
  rw [← List.drop_drop, h, List.drop_append_of_le_length (by rw [length_chunk]; omega), drop_four_chunk, List.append_assoc]

/-- The tag stands behind the length field. -/
theorem take_tag_of_drop_eq_chunk : (img.drop (k + 4)).take 4 = bew t := by
  rw [drop_covered_of_drop_eq_chunk h, List.append_assoc, List.take_left' (length_bew t)]

/-- The payload stands behind the tag. -/
theorem drop_payload_of_drop_eq_chunk : img.drop (k + 8) = p ++ (bew (crc32 (bew t ++ p)) ++ rest) := by
  rw [← List.drop_drop (i := 4) (j := k + 4), drop_covered_of_drop_eq_chunk h, List.append_assoc,
    List.drop_left' (length_bew t)]

/-- The checksum over tag and payload, both read where they stand, follows the payload. -/
theorem take_checksum_of_drop_eq_chunk :
    (img.drop (k + 8 + p.length)).take 4 = bew (crc32 ((img.drop (k + 4)).take (4 + p.length))) := by
  rw [← List.drop_drop, drop_payload_of_drop_eq_chunk h, List.drop_left, List.take_left' (length_bew _),
    drop_covered_of_drop_eq_chunk h, List.take_left' (by rw [List.length_append, length_bew])]

/-- What follows the chunk. -/
theorem drop_rest_of_drop_eq_chunk : img.drop (k + 12 + p.length) = rest := by
  rw [Nat.add_assoc, ← List.drop_drop, h, List.drop_left' (length_chunk t p)]

end

/-! ### The layout of an EncodedImage (R148) -/

/-- The accumulator of the end chunk before the final inversion (R146). -/
theorem crcAcc_tagIend : crcAcc (bew tagIend) = 0x51BD9F7D#32 := by decide +kernel

/-- The end chunk (R146). -/
theorem chunk_tagIend : chunk tagIend [] =
    [0x00#8, 0x00#8, 0x00#8, 0x00#8, 0x49#8, 0x45#8, 0x4E#8, 0x44#8, 0xAE#8, 0x42#8, 0x60#8, 0x82#8] := by
  rw [chunk, crc32, List.append_nil, List.append_nil, crcAcc_tagIend]
  decide

section

variable (w h : Word) (z : List Byte)

/-- The header payload has 13 bytes (R143). -/
theorem length_headerPayload : (headerPayload w h).length = 13 := rfl

/-- The header chunk starts behind the signature. -/
theorem drop_header_encodedImage :
    (encodedImage w h z).drop 8 = chunk tagIhdr (headerPayload w h) ++ (chunk tagIdat z ++ chunk tagIend []) := by
  rw [encodedImage, List.append_assoc, List.append_assoc]
  exact List.drop_left' rfl

/-- The width, the height and the fixed bytes of the header stand one behind the other from byte 16 on (R143). -/
theorem drop_fields_encodedImage :
    ∃ rest, (encodedImage w h z).drop 16 = bew w ++ (bew h ++ (headerFixedBytes ++ rest)) ∧
      (encodedImage w h z).drop 20 = bew h ++ (headerFixedBytes ++ rest) ∧
      (encodedImage w h z).drop 24 = headerFixedBytes ++ rest := by
  have hwidth := drop_payload_of_drop_eq_chunk (drop_header_encodedImage w h z)
  rw [headerPayload, List.append_assoc, List.append_assoc] at hwidth
  have hheight := congrArg (List.drop 4) hwidth
  rw [List.drop_drop, List.drop_left' (length_bew w)] at hheight
  have hfixed := congrArg (List.drop 4) hheight
  rw [List.drop_drop, List.drop_left' (length_bew h)] at hfixed
  exact ⟨_, hwidth, hheight, hfixed⟩

/-- The data chunk starts behind the 25 bytes of the header chunk. -/
theorem drop_data_encodedImage : (encodedImage w h z).drop 33 = chunk tagIdat z ++ chunk tagIend [] :=
  drop_rest_of_drop_eq_chunk (drop_header_encodedImage w h z)

/-- The end chunk is the rest. -/
theorem drop_end_encodedImage : (encodedImage w h z).drop (45 + z.length) = chunk tagIend [] :=
  drop_rest_of_drop_eq_chunk (drop_data_encodedImage w h z)

/-- The length field of the header chunk (R143, R148). -/
theorem lengthField_headerPayload : lengthField (headerPayload w h) = [0x00#8, 0x00#8, 0x00#8, 0x0D#8] := by
  rw [lengthField, length_headerPayload]
  decide

/-- The signature and the framing take 57 bytes. -/
theorem length_encodedImage : (encodedImage w h z).length = 57 + z.length := by
  have hsignature : signature.length = 8 := rfl
  simp only [encodedImage, List.length_append, length_chunk, length_headerPayload, hsignature, List.length_nil]
  omega

end

/-- Settles O57: each chunk is found behind the ones before it, and its fields behind its start. -/
theorem imageLayout : Obligations.ImageLayout := by
  intro w h z hz
  have hihdr := drop_header_encodedImage w h z
  have hidat := drop_data_encodedImage w h z
  obtain ⟨rest, hwidth, hheight, hfixed⟩ := drop_fields_encodedImage w h z
  refine ⟨length_encodedImage w h z, rfl, ?_, take_tag_of_drop_eq_chunk hihdr, ?_, ?_, ?_,
    take_checksum_of_drop_eq_chunk hihdr, ?_, take_tag_of_drop_eq_chunk hidat, ?_, take_checksum_of_drop_eq_chunk hidat, ?_⟩
  · rw [take_length_of_drop_eq_chunk hihdr, lengthField_headerPayload]
  · rw [hwidth, List.take_left' (length_bew w), unbew_bew]
  · rw [hheight, List.take_left' (length_bew h), unbew_bew]
  · rw [hfixed]; exact List.take_left' rfl
  · rw [take_length_of_drop_eq_chunk hidat, unbew_lengthField hz]
  · rw [drop_payload_of_drop_eq_chunk hidat, List.take_left]
  · rw [drop_end_encodedImage, chunk_tagIend]

/-! ### The canonical host sequence (R149) -/

/-- Commands that leave the CORE in RUN mode hand a careful host the data of the responses they added. -/
theorem issue_of_rsp {cs : List Instr} {s : State} {rs : List Response} (hs : ∀ i ∈ cs, i ≠ .sysRst)
    (hm : (afterAll cs s).mode = .run) (hr : (afterAll cs s).rsp = s.rsp ++ rs) :
    issue cs s = .ok (rs.flatMap Response.data) (afterAll cs s) := by
  obtain ⟨rs', hr', e⟩ := issue_ok cs s hs hm
  rwa [List.append_cancel_left (hr'.symm.trans hr)] at e

/-- Responses without data carry no data. -/
theorem flatMap_data_replicate (n : Nat) (c : Byte) : (List.replicate n (⟨c, []⟩ : Response)).flatMap Response.data = [] := by
  simp [List.flatMap_replicate]

/-- The canonical sequence of a payload that fits, as an equation for the state it leaves (R124). -/
theorem afterAll_chunkCommands (t : Word) {p : List Byte} {s : State} (hm : s.mode = .run)
    (hc : s.pb.length + p.length ≤ s.cfg.pbCap) :
    afterAll (chunkCommands t p) s = { s with
      acc := crcAcc (bew t ++ (s.pb ++ p))
      pb := []
      rsp := s.rsp ++ List.replicate p.length ⟨0x00#8, []⟩ ++ [⟨0x00#8, chunk t (s.pb ++ p)⟩] } :=
  Host.Outcome.next.inj ((execAll_eq _ _).symm.trans (canonicalPayloadBuilds t p s hm hc))

section

variable (w h : Word) {z : List Byte} {s : State} (hm : s.mode = .run) (hp : s.pb = []) (hcap : 13 ≤ s.cfg.pbCap)

include hm hp hcap

/-- Step 6: the two dimensions are old bytes in front of the fixed ones, and the chunk is that of the whole payload. -/
theorem afterAll_pngIhdr :
    afterAll (expand (.pngIhdr w h)) s = { s with
      acc := crcAcc (bew tagIhdr ++ headerPayload w h)
      rsp := s.rsp ++ List.replicate 7 ⟨0x00#8, []⟩ ++ [⟨0x00#8, chunk tagIhdr (headerPayload w h)⟩] } := by
  have hsplit : expand (.pngIhdr w h) = .chbPushw w :: .chbPushw h :: chunkCommands tagIhdr headerFixedBytes := rfl
  rw [hsplit, afterAll_cons, after_chbPushw w hm (by simp [hp]; omega), afterAll_cons,
    after_chbPushw h (by exact hm) (by simp [hp]; omega),
    afterAll_chunkCommands tagIhdr (by exact hm) (by simpa [hp, headerFixedBytes] using hcap)]
  simp [hp, headerPayload, headerFixedBytes, List.replicate]

/-- Steps 6 to 8: three chunks, PB empty in between and at the end. -/
theorem afterAll_buildCommands (hz : z.length ≤ s.cfg.pbCap) :
    afterAll (buildCommands w h z) s = { s with
      acc := crcAcc (bew tagIend)
      rsp := s.rsp ++ ((List.replicate 7 ⟨0x00#8, []⟩ ++ [⟨0x00#8, chunk tagIhdr (headerPayload w h)⟩]) ++
        (List.replicate z.length ⟨0x00#8, []⟩ ++ [⟨0x00#8, chunk tagIdat z⟩]) ++ [⟨0x00#8, chunk tagIend []⟩]) } := by
  have hidat : expand (.pngIdat z) = chunkCommands tagIdat z := rfl
  have hiend : expand .pngIend = chunkCommands tagIend [] := rfl
  rw [buildCommands, afterAll_append, afterAll_append, afterAll_pngIhdr w h hm hp hcap, hidat,
    afterAll_chunkCommands tagIdat (by exact hm) (by simpa [hp] using hz), hiend,
    afterAll_chunkCommands tagIend (by exact hm) (by simp)]
  simp [hp]

/-- Steps 6 to 8 hand the careful host the three chunks. -/
theorem issue_buildCommands (hz : z.length ≤ s.cfg.pbCap) :
    ∃ log, issue (buildCommands w h z) s =
      .ok (chunk tagIhdr (headerPayload w h) ++ chunk tagIdat z ++ chunk tagIend [])
        { s with acc := crcAcc (bew tagIend), rsp := log } := by
  have e := afterAll_buildCommands w h hm hp hcap hz
  have hrst : ∀ i ∈ buildCommands w h z, i ≠ .sysRst := by simp [buildCommands, expand, or_imp, forall_and]
  have hi := issue_of_rsp hrst (by rw [e]; exact hm) (by rw [e])
  rw [e] at hi
  exact ⟨_, by simpa [flatMap_data_replicate] using hi⟩

end

/-- No command of the canonical sequence of a grid is SYS.RST. -/
theorem ne_sysRst_of_mem_packCommands {g : PixelGrid} : ∀ i ∈ packCommands g, i ≠ .sysRst := by
  intro i hi
  rcases List.mem_append.mp hi with hi | hi
  · exact ne_sysRst_of_unit (by simp [unit_of_mem_gridRows i hi])
  · rw [List.mem_singleton.mp hi]; simp

/-- Steps 2 to 4 hand the careful host the packed grid (R108). -/
theorem issue_packCommands {g : PixelGrid} {s : State} (hg : gridWellFormed g = true)
    (hf : packedSize (widthWord g) (heightWord g) ≤ s.cfg.slbCap) (hm : s.mode = .run) (ha : s.active = false) :
    ∃ t, issue (packCommands g) s = .ok (pack g) t ∧ t.mode = .run ∧ t.active = false ∧ t.pb = s.pb ∧ t.cfg = s.cfg ∧
      t.width = widthWord g ∧ t.height = heightWord g := by
  have e := Host.Outcome.next.inj ((execAll_eq _ _).symm.trans (canonicalGridPacks g s hg hf hm ha))
  have hi := issue_of_rsp ne_sysRst_of_mem_packCommands (by rw [e]; exact hm) (by rw [e, List.append_assoc])
  rw [e, List.flatMap_append, flatMap_data_replicate, List.nil_append, List.flatMap_singleton] at hi
  exact ⟨_, hi, hm, rfl, rfl, rfl, rfl, rfl⟩

/-- Settles O58: SYS.RST, the packed grid, then the three chunks; no step raises a fault, and the last leaves PB empty. -/
theorem canonicalSequenceMakesImage : Obligations.CanonicalSequenceMakesImage := by
  intro compress g s z hlegal hg hf hcompress hz
  obtain ⟨-, -, -, hheight, hwidth⟩ := (gridWellFormed_iff g).mp hg
  have hcap : 13 ≤ s.cfg.pbCap := by
    simp only [Config.legal, Bool.and_eq_true, decide_eq_true_eq] at hlegal
    obtain ⟨⟨hmin, -⟩, -⟩ := hlegal
    exact hmin
  obtain ⟨t, hpack, hm, ha, hp, hcfg, hw, hh⟩ := issue_packCommands (s := respond 0x00#8 [] (resetItems s)) hg hf rfl rfl
  obtain ⟨log, hbuild⟩ := issue_buildCommands (widthWord g) (heightWord g) hm hp (hcfg ▸ hcap) (hcfg ▸ hz)
  refine ⟨{ t with acc := crcAcc (bew tagIend), rsp := log }, ?_, ?_, crcAcc_tagIend, hw, hh⟩
  · simp only [encodeImage, if_pos (And.intro hheight hwidth), issue_cons_ok (after_sysRst s), hpack, List.nil_append,
      hcompress, hbuild, encodedImage, List.append_assoc]
  · simp [idle, hm, ha, hp]

/-! ### Components in integers (R151, R163) -/

/-- A component is outside 0 to 255. -/
theorem inRange_eq_false_iff (x : WideColor) :
    x.inRange = false ↔ x.red < 0 ∨ x.red > 255 ∨ x.green < 0 ∨ x.green > 255 ∨ x.blue < 0 ∨ x.blue > 255 := by
  simp only [WideColor.inRange, Bool.and_eq_false_iff, decide_eq_false_iff_not]
  omega

/-- A colour in range keeps its components as a pixel. -/
theorem toNat_narrowColor {x : WideColor} (h : x.inRange = true) :
    ((narrowColor x).red.toNat : Int) = x.red ∧ ((narrowColor x).green.toNat : Int) = x.green ∧
      ((narrowColor x).blue.toNat : Int) = x.blue := by
  simp only [WideColor.inRange, Bool.and_eq_true, decide_eq_true_eq] at h
  simp only [narrowColor, BitVec.toNat_ofInt]
  omega

/-- Columns are counted from where the count starts. -/
theorem badColumn_add (cs : List WideColor) (k n : Nat) : badColumn cs (k + n) = (badColumn cs k).map (· + n) := by
  induction cs generalizing k with
  | nil => rfl
  | cons x cs ih =>
    simp only [badColumn]
    split
    · rw [Nat.add_right_comm, ih]
    · rfl

/-- The first colour of a row that is out of range (R151). -/
theorem badColumn_eq_some_iff (cs : List WideColor) (c : Nat) :
    badColumn cs 0 = some c ↔ ∃ x, cs[c]? = some x ∧ x.inRange = false ∧ ∀ y ∈ cs.take c, y.inRange = true := by
  induction cs generalizing c with
  | nil => simp [badColumn]
  | cons x cs ih =>
    rw [badColumn, badColumn_add]
    cases hx : x.inRange with
    | false => cases c <;> simp [hx]
    | true => cases c <;> simp [hx, ih]

/-- A row has no bad column when all its colours are in range. -/
theorem badColumn_eq_none_iff (cs : List WideColor) (k : Nat) :
    badColumn cs k = none ↔ ∀ y ∈ cs, y.inRange = true := by
  induction cs generalizing k with
  | nil => simp [badColumn]
  | cons x cs ih => cases hx : x.inRange <;> simp [badColumn, hx, ih]

/-- Rows are counted from where the count starts. -/
theorem badComponent_add (g : List (List WideColor)) (k n : Nat) :
    badComponent g (k + n) = (badComponent g k).map fun p => (p.1 + n, p.2) := by
  induction g generalizing k with
  | nil => rfl
  | cons cs g ih =>
    simp only [badComponent]
    split
    · rfl
    · rw [Nat.add_right_comm, ih]

/-- The first row with a bad column, and that column (R151, R163). -/
theorem badComponent_eq_some_iff (g : List (List WideColor)) (r c : Nat) :
    badComponent g 0 = some (r, c) ↔
      ∃ row, g[r]? = some row ∧ badColumn row 0 = some c ∧ ∀ q ∈ g.take r, badColumn q 0 = none := by
  induction g generalizing r with
  | nil => simp [badComponent]
  | cons cs g ih =>
    rw [badComponent, badComponent_add]
    cases hcs : badColumn cs 0 with
    | some col => cases r <;> simp [hcs]
    | none => cases r <;> simp [hcs, ih]

/-- A grid whose colours are all in range has no bad component. -/
theorem badComponent_eq_none {g : List (List WideColor)} (h : ∀ row ∈ g, ∀ x ∈ row, x.inRange = true) (k : Nat) :
    badComponent g k = none := by
  induction g generalizing k with
  | nil => rfl
  | cons cs g ih =>
    obtain ⟨hcs, hg⟩ := List.forall_mem_cons.mp h
    rw [badComponent, (badColumn_eq_none_iff cs 0).mpr hcs]
    exact ih hg (k + 1)

/-- The host reports a bad component and nothing else. -/
theorem narrowGrid_eq_error_iff (g : List (List WideColor)) (r c : Nat) :
    narrowGrid g = .error (.colorComponentOutOfRange r c) ↔ badComponent g 0 = some (r, c) := by
  unfold narrowGrid
  split <;> simp_all

/-- Settles O60: the search finds the first bad row and its first bad column, and a colour in range loses nothing. -/
theorem wideComponentsAreReported : Obligations.WideComponentsAreReported := by
  refine fun g => ⟨fun r c => ?_, fun hg => ⟨g.map fun row => row.map narrowColor, ?_, ?_⟩⟩
  · simp only [narrowGrid_eq_error_iff, badComponent_eq_some_iff, badColumn_eq_some_iff, badColumn_eq_none_iff,
      inRange_eq_false_iff]
    simp only [← exists_and_left, ← exists_and_right, and_assoc]
  · rw [narrowGrid, badComponent_eq_none hg]
  · simp only [List.map_map, List.map_inj_left, Function.comp_apply]
    intro row hrow x hx
    obtain ⟨hr, hgr, hb⟩ := toNat_narrowColor (hg row hrow x hx)
    exact Prod.ext hr (Prod.ext hgr hb)

end Sys2Proof.Machine
end

section
/-! PROOFS. Family `60_exceptions`: the codes the CORE produces (R160, R70), the fault entry (R167), FAULT mode and the ways
out of it (R168, R169), which command raises which fault in which case (R162, R164, R165, R178), and several COREs (R177). -/

namespace Sys2Proof.Machine

/-! ### The fault entry (R167) -/

/-- No two faults share a code (R160). -/
theorem faultCode_inj {c d : FaultCode} (h : faultCode c = faultCode d) : c = d := by
  revert h
  cases c <;> cases d <;> decide

/-- A command that completes in RUN mode stays in it. -/
theorem effect_mode_run {s : State} (h : s.mode = .run) (i : Instr) : (effect i s).mode = .run := by
  by_cases hi : i = .sysRst
  · subst hi; rfl
  · exact (effect_mode hi s).1.trans h

/-- A command that takes the CORE from RUN to FAULT mode has raised the fault of its first failing check. -/
theorem after_of_mode_fault {i : Instr} {s : State} (hm : s.mode = .run) (ht : (after i s).mode = .fault) :
    ∃ c, firstFault i s = some c ∧ after i s = faulted c s := by
  cases hf : firstFault i s with
  | some c => exact ⟨c, rfl, after_faulted c hm hf⟩
  | none =>
    rw [after_run hm hf, respond_mode, effect_mode_run hm] at ht
    cases ht

/-- So has a word, an illegal one included (R161). -/
theorem afterWord_of_mode_fault {c : Command} {s : State} (hm : s.mode = .run) (ht : (afterWord c s).mode = .fault) :
    ∃ k, afterWord c s = faulted k s := by
  cases hd : decode c with
  | ok i =>
    rw [afterWord_ok hd] at ht ⊢
    obtain ⟨k, -, e⟩ := after_of_mode_fault hm ht
    exact ⟨k, e⟩
  | error e => exact ⟨.illegalCommand, afterWord_illegal hd hm⟩

/-- Settles O15: a word that enters FAULT mode ends in `faulted`, and no fault has code OK. -/
theorem faultEntryDiscardsAllWrites : Obligations.FaultEntryDiscardsAllWrites := by
  intro s t c hm hs ht
  rw [executeWord_eq] at hs
  cases hs
  obtain ⟨k, e⟩ := afterWord_of_mode_fault hm ht
  exact ⟨faultCode k, faultCode_ne_ok k, e⟩

/-! ### FAULT mode (R168, R169) -/

/-- The step on a word other than SYS.RST in FAULT mode. -/
theorem step_refused {s : State} {c : Command} {rest : List HostInput} (hm : s.mode = .fault)
    (hi : s.inputs = .word c :: rest) (hc : decode c ≠ .ok .sysRst) :
    step s = .next (respond s.err [] (setInputs rest s)) := by
  rw [step_word hi, afterWord_fault (s := setInputs rest s) hm hc, setInputs_err]

/-- Any number of such words, one refusal after the other. -/
theorem runSteps_refused {ws : List Command} {rest : List HostInput} {s : State} (hm : s.mode = .fault)
    (hws : ∀ c ∈ ws, decode c ≠ .ok .sysRst) :
    runSteps ws.length { s with inputs := ws.map HostInput.word ++ rest } =
      .next { s with inputs := rest, rsp := s.rsp ++ List.replicate ws.length ⟨s.err, []⟩ } := by
  induction ws generalizing s with
  | nil => simp
  | cons c ws ih =>
    obtain ⟨hc, hws⟩ := List.forall_mem_cons.mp hws
    have hstep : step { s with inputs := .word c :: (ws.map HostInput.word ++ rest) } =
        .next { respond s.err [] s with inputs := ws.map HostInput.word ++ rest } :=
      step_refused (s := setInputs (.word c :: (ws.map HostInput.word ++ rest)) s) hm rfl hc
    rw [List.length_cons, List.map_cons, List.cons_append, runSteps_succ hstep, ih (s := respond s.err [] s) hm hws]
    simp [respond, List.replicate_succ]

/-- Settles O16: one refusal, any number of them, and ERR under the invariants. -/
theorem faultModeRefusesEveryWord : Obligations.FaultModeRefusesEveryWord :=
  ⟨fun _ _ _ hm hi hc => step_refused hm hi hc, fun _ _ _ hm hws => runSteps_refused hm hws, fun _ h hm => h.err_ne_ok hm⟩

/-- Settles O17: without input FAULT mode stays, a word leaves it only as SYS.RST, and that and both forms of the reset input
reset every item. -/
theorem onlyResetLeavesFaultMode : Obligations.OnlyResetLeavesFaultMode := by
  intro s t hm hs ht
  rcases step_cases hs with ⟨-, rfl⟩ | ⟨c, rest, hi, rfl⟩ | ⟨rest, hi, rfl⟩ | ⟨c, rest, hi, rfl⟩
  · rw [hm] at ht; cases ht
  · have hc : decode c = .ok .sysRst := by
      by_contra hc
      rw [afterWord_fault (by exact hm) hc, respond_mode, setInputs_mode, hm] at ht
      cases ht
    rw [afterWord_ok hc, after_sysRst]
    exact ⟨⟨rfl, rfl, rfl, rfl, rfl, rfl, rfl, rfl, rfl, rfl⟩, .inl ⟨c, rest, hi, hc⟩⟩
  · exact ⟨⟨rfl, rfl, rfl, rfl, rfl, rfl, rfl, rfl, rfl, rfl⟩, .inr (.inl ⟨rest, hi⟩)⟩
  · exact ⟨⟨rfl, rfl, rfl, rfl, rfl, rfl, rfl, rfl, rfl, rfl⟩, .inr (.inr ⟨c, rest, hi⟩)⟩

/-! ### Which command raises which fault (R162, R164, R165, R178) -/

/-- In RUN mode a command raises `c` exactly when its first failing check is one for `c`. -/
theorem exec_eq_faulted_iff {i : Instr} {s : State} {c : FaultCode} (hm : s.mode = .run) :
    exec i s = .next (faulted c s) ↔ firstFault i s = some c := by
  rw [exec_eq]
  refine ⟨fun h => ?_, fun hf => by rw [after_faulted c hm hf]⟩
  have e : after i s = faulted c s := Host.Outcome.next.inj h
  obtain ⟨k, hf, e'⟩ := after_of_mode_fault hm (by rw [e]; rfl)
  rw [hf, faultCode_inj (congrArg State.err (e'.symm.trans e) : faultCode k = faultCode c)]

/-- The checks of R164: an SLP command in a unit state that does not allow it. -/
theorem firstFault_eq_protocol_iff (i : Instr) (s : State) :
    firstFault i s = some .protocol ↔
      (s.active = true ∧ ((∃ w, i = .slpSetw w) ∨ (∃ h, i = .slpSeth h) ∨ i = .slpBegin)) ∨
      (s.active = false ∧ ((∃ r g b, i = .slpPix r g b) ∨ i = .slpEor ∨ i = .slpPack)) := by
  cases i with
  | slpSetw | slpSeth | slpBegin | slpPix | slpEor | slpPack => simp [firstFault, ite_eq_iff]
  | _ => simp [firstFault]

/-- The checks of R162, behind that of R164. -/
theorem firstFault_eq_malformedInput_iff (i : Instr) (s : State) :
    firstFault i s = some .malformedInput ↔
      (s.active = false ∧ i = .slpBegin ∧ (s.width = 0#32 ∨ s.height = 0#32)) ∨
      (s.active = true ∧
        (((∃ r g b, i = .slpPix r g b) ∧ (s.row = s.height ∨ s.col = s.width)) ∨
          (i = .slpEor ∧ (s.row = s.height ∨ s.col ≠ s.width)) ∨
          (i = .slpPack ∧ (s.row ≠ s.height ∨ s.col ≠ 0#32)))) := by
  cases i with
  | slpBegin => simp [firstFault, ite_eq_iff, dimensionZero, or_iff_not_imp_left]
  | slpPix | slpEor | slpPack => simp [firstFault, ite_eq_iff, rowsDone, rowFull, rowUnopened, or_iff_not_imp_left]
  | _ => simp [firstFault]

/-- The checks of R165, SLP.BEGIN's behind those of R164 and R162. -/
theorem firstFault_eq_capacity_iff (i : Instr) (s : State) :
    firstFault i s = some .capacity ↔
      (i = .slpBegin ∧ s.active = false ∧ s.width ≠ 0#32 ∧ s.height ≠ 0#32 ∧
        s.height.toNat * (3 * s.width.toNat + 1) > s.cfg.slbCap) ∨
      ((∃ b, i = .chbPushb b) ∧ s.pb.length + 1 > s.cfg.pbCap) ∨
      ((∃ w, i = .chbPushw w) ∧ s.pb.length + 4 > s.cfg.pbCap) := by
  cases i with
  | slpBegin => simp [firstFault, ite_eq_iff, dimensionZero, gridTooLarge, packedSize, and_assoc]
  | chbPushb | chbPushw => simp [firstFault, payloadFull]
  | _ => simp [firstFault, ite_eq_iff]

/-- Settles O19: PROTOCOL is the first check to fail, and that is R164's case. -/
theorem protocolFaultCases : Obligations.ProtocolFaultCases := fun i s hm =>
  (exec_eq_faulted_iff hm).trans (firstFault_eq_protocol_iff i s)

/-- Settles O20: MALFORMED_INPUT is the first check to fail, and that is R162's case. -/
theorem malformedInputFaultCases : Obligations.MalformedInputFaultCases := fun i s hm =>
  (exec_eq_faulted_iff hm).trans (firstFault_eq_malformedInput_iff i s)

/-- Settles O21: CAPACITY is the first check to fail, and that is R165's case. -/
theorem capacityFaultCases : Obligations.CapacityFaultCases := fun i s hm =>
  (exec_eq_faulted_iff hm).trans (firstFault_eq_capacity_iff i s)

/-- No check raises a fault the table of R178 does not mark. -/
theorem mayRaise_of_firstFault {i : Instr} {s : State} {c : FaultCode} (h : firstFault i s = some c) :
    mayRaise i c = true := by
  cases c with
  | protocol =>
    rcases (firstFault_eq_protocol_iff i s).mp h with
      ⟨-, ⟨w, rfl⟩ | ⟨w, rfl⟩ | rfl⟩ | ⟨-, ⟨r, g, b, rfl⟩ | rfl | rfl⟩ <;> rfl
  | malformedInput =>
    rcases (firstFault_eq_malformedInput_iff i s).mp h with
      ⟨-, rfl, -⟩ | ⟨-, ⟨⟨r, g, b, rfl⟩, -⟩ | ⟨rfl, -⟩ | ⟨rfl, -⟩⟩ <;> rfl
  | capacity =>
    rcases (firstFault_eq_capacity_iff i s).mp h with ⟨rfl, -⟩ | ⟨⟨b, rfl⟩, -⟩ | ⟨⟨w, rfl⟩, -⟩ <;> rfl
  | illegalCommand | colorComponentOutOfRange => cases i <;> simp [firstFault, ite_eq_iff] at h

/-- A CORE of the smallest legal capacities that has a grid of one pixel begun and its PB full. -/
def gridBegun : State :=
  { State.resetWith { pbCap := 13, slbCap := 4 } with
    width := 1#32, height := 1#32, active := true, pb := List.replicate 13 0x00#8 }

/-- The same CORE with the grid's one pixel in. -/
def rowIsFull : State := { gridBegun with col := 1#32, slb := List.replicate 4 0x00#8 }

/-- The same CORE without a grid, set to a width of 2: 7 bytes, where SLB has 4. -/
def gridMisfits : State := { gridBegun with width := 2#32, active := false }

/-- Every fault the table of R178 marks is raised in some state. -/
theorem exists_firstFault_of_mayRaise {i : Instr} {c : FaultCode} (h : mayRaise i c = true) :
    ∃ s, s.mode = .run ∧ firstFault i s = some c := by
  cases c with
  | protocol =>
    cases i with
    | slpSetw | slpSeth | slpBegin => exact ⟨gridBegun, rfl, rfl⟩
    | slpPix | slpEor | slpPack => exact ⟨State.reset, rfl, rfl⟩
    | _ => cases h
  | malformedInput =>
    cases i with
    | slpBegin => exact ⟨State.reset, rfl, rfl⟩
    | slpPix => exact ⟨rowIsFull, rfl, rfl⟩
    | slpEor | slpPack => exact ⟨gridBegun, rfl, rfl⟩
    | _ => cases h
  | capacity =>
    cases i with
    | slpBegin | chbPushb | chbPushw => exact ⟨gridMisfits, rfl, rfl⟩
    | _ => cases h
  | illegalCommand | colorComponentOutOfRange => cases i <;> cases h

/-- Settles O18: a command enters FAULT mode by a check of its own, and those are the table's. -/
theorem faultsByCommand : Obligations.FaultsByCommand := by
  intro i c
  constructor
  · rintro ⟨s, t, hm, hs, ht, he⟩
    rw [exec_eq] at hs
    cases hs
    obtain ⟨k, hf, e⟩ := after_of_mode_fault hm ht
    obtain rfl : k = c := faultCode_inj ((congrArg State.err e).symm.trans he)
    exact mayRaise_of_firstFault hf
  · intro h
    obtain ⟨s, hm, hf⟩ := exists_firstFault_of_mayRaise h
    exact ⟨s, faulted c s, hm, (exec_eq_faulted_iff hm).mpr hf, rfl, rfl⟩

/-! ### The codes of ERR and of the responses (R160, R163, R70) -/

/-- The contract of R70 and R160, response by response. -/
theorem State.codesSound_iff (s : State) :
    s.codesSound = true ↔ codeProduced s.err = true ∧ ∀ r ∈ s.rsp, responseSound r = true := by
  simp [State.codesSound]

/-- The contract reads ERR and the responses alone, and a code produced may take ERR's place. -/
theorem codesSound_of_err {s t : State} (h : s.codesSound = true) (he : codeProduced t.err = true) (hr : t.rsp = s.rsp) :
    t.codesSound = true := by
  obtain ⟨-, hrsp⟩ := s.codesSound_iff.mp h
  exact t.codesSound_iff.mpr ⟨he, hr ▸ hrsp⟩

/-- A response that keeps the contract joins the log. -/
theorem codesSound_respond {s : State} {c : Byte} {d : List Byte} (h : s.codesSound = true)
    (hr : responseSound ⟨c, d⟩ = true) : (respond c d s).codesSound = true := by
  obtain ⟨he, hrsp⟩ := s.codesSound_iff.mp h
  refine (State.codesSound_iff _).mpr ⟨he, fun r hm => ?_⟩
  rcases List.mem_append.mp hm with hm | hm
  · exact hrsp r hm
  · rw [List.mem_singleton.mp hm]; exact hr

/-- A response without data keeps the contract when its status is a code produced. -/
theorem responseSound_nil {c : Byte} (h : codeProduced c = true) : responseSound ⟨c, []⟩ = true := by
  simp [responseSound, h]

/-- An OK response may carry any data. -/
theorem responseSound_ok (d : List Byte) : responseSound ⟨0x00#8, d⟩ = true := rfl

/-- Raising a fault whose code is produced keeps the contract (R167). -/
theorem codesSound_fault {s : State} {c : Byte} (h : s.codesSound = true) (hc : codeProduced c = true) :
    (respond c [] (setFault c s)).codesSound = true :=
  codesSound_respond (codesSound_of_err (t := setFault c s) h hc rfl) (responseSound_nil hc)

/-- A refusal repeats the code of ERR (R168). -/
theorem codesSound_refusal {s : State} (h : s.codesSound = true) : (respond s.err [] s).codesSound = true :=
  codesSound_respond h (responseSound_nil (s.codesSound_iff.mp h).1)

/-- The codes of the table of R178 are produced ones: it marks no COLOR_COMPONENT_OUT_OF_RANGE (R163). -/
theorem codeProduced_of_mayRaise {i : Instr} {c : FaultCode} (h : mayRaise i c = true) :
    codeProduced (faultCode c) = true := by
  cases c with
  | colorComponentOutOfRange => cases i <;> cases h
  | _ => rfl

/-- A command that completes leaves ERR, or clears it (R130). -/
theorem codesSound_effect {s : State} (h : s.codesSound = true) (i : Instr) : (effect i s).codesSound = true := by
  refine codesSound_of_err h ?_ (effect_rsp i s)
  by_cases hi : i = .sysRst
  · subst hi; rfl
  · rw [(effect_mode hi s).2]; exact (s.codesSound_iff.mp h).1

/-- Every command keeps the contract. -/
theorem codesSound_after {s : State} (h : s.codesSound = true) (i : Instr) : (after i s).codesSound = true := by
  rcases after_cases i s with ⟨-, -, e⟩ | ⟨c, -, -, hf, e⟩ | ⟨-, -, e⟩ <;> rw [e]
  · exact codesSound_refusal h
  · exact codesSound_fault h (codeProduced_of_mayRaise (mayRaise_of_firstFault hf))
  · exact codesSound_respond (codesSound_effect h i) (responseSound_ok _)

/-- Every word keeps the contract, an illegal one included (R161). -/
theorem codesSound_afterWord {s : State} (h : s.codesSound = true) (c : Command) : (afterWord c s).codesSound = true := by
  cases hd : decode c with
  | ok i => rw [afterWord_ok hd]; exact codesSound_after h i
  | error e =>
    rcases mode_cases s with hm | hm
    · rw [afterWord_illegal hd hm]; exact codesSound_fault h rfl
    · rw [afterWord_fault hm (by simp [hd])]; exact codesSound_refusal h

/-- Settles O26: the step is a word, which keeps the contract, or the reset input, which answers nothing and clears ERR; the
reset during a command is excluded. -/
theorem stepKeepsCodesSound : Obligations.StepKeepsCodesSound := by
  intro s t h hx hs
  rcases step_cases hs with ⟨-, rfl⟩ | ⟨c, rest, -, rfl⟩ | ⟨rest, -, rfl⟩ | ⟨c, rest, hi, -⟩
  · exact h
  · exact codesSound_afterWord (s := setInputs rest s) h c
  · exact codesSound_of_err (t := resetItems (setInputs rest s)) h rfl rfl
  · exact absurd hi (hx c rest)

/-! ### Several COREs (R177) -/

/-- A step of one CORE leaves every other as it was. -/
theorem stepNth_get_ne {j k : Nat} (h : j ≠ k) (cores : List Result) : (stepNth j cores)[k]? = cores[k]? := by
  rw [stepNth_get, if_neg h]

/-- Steps of two COREs commute: CORE by CORE, at most one of the two moves it. -/
theorem stepBoth_comm {j k : Nat} (h : j ≠ k) (cores : List Result) : stepBoth j k cores = stepBoth k j cores := by
  refine List.ext_getElem? fun m => ?_
  simp only [stepBoth, stepNth_get]
  by_cases hj : j = m
  · have hk : k ≠ m := fun hk => h (hj.trans hk.symm)
    simp only [hj, hk, if_true, if_false]
  · simp only [hj, if_false]

/-- A CORE that has come `n` steps of its own comes as many further as it is named, whatever the others do. -/
theorem stepMany_get {order : List Nat} {cores : List Result} {k n : Nat} {s : State}
    (h : cores[k]? = some (runSteps n s)) :
    (stepMany order cores)[k]? = some (runSteps (n + order.count k) s) := by
  induction order generalizing cores n with
  | nil => exact h
  | cons j order ih =>
    rw [stepMany_cons]
    by_cases hj : j = k
    · have hstep : (stepNth j cores)[k]? = some (runSteps (n + 1) s) := by
        rw [stepNth_get, if_pos hj, h, Option.map_some, advance_runSteps]
      rw [ih hstep, hj, List.count_cons_self, Nat.add_assoc, Nat.add_comm 1]
    · rw [ih (by rw [stepNth_get_ne hj, h]), List.count_cons_of_ne hj]

/-- Settles O55: each part CORE by CORE, from what a step of one does to each. -/
theorem coresShareNothing : Obligations.CoresShareNothing := by
  refine ⟨fun cores j s h => ⟨?_, length_stepNth j cores⟩, fun cores j k h => stepNth_get_ne h cores,
    fun cores j k h => stepBoth_comm h cores, fun cores order k s h => ?_⟩
  · rw [stepNth_get, if_pos rfl, h, Option.map_some, advance_next]
  · rw [stepMany_get (n := 0) (by rw [h, runSteps_zero]), Nat.zero_add]

end Sys2Proof.Machine
end

section
/-! PROOFS. Family `70_reset_and_hazards`: the reset input between commands and during one (R190, U3), the port without a
word (R176, U4), completion of every word (R200), and a checksum streamed across CHB.BUILD (R194). -/

namespace Sys2Proof.Machine

/-! ### The port without a word (R190, R176, U4) -/

/-- The return by reset as R34 writes it: the reset state, in the same environment. -/
theorem resetItems_eq_resetWith (s : State) :
    resetItems s =
      { State.resetWith s.cfg with rsp := s.rsp, inputs := s.inputs, freeUses := s.freeUses } := rfl

/-- Settles O9: each of the three is what the port does with that input. -/
theorem portWithoutWord : Obligations.PortWithoutWord := by
  refine ⟨fun s rest h => ?_, fun s b rest h => step_breach h, fun s h => step_idle h⟩
  rw [step_resetInput h, resetItems_eq_resetWith]
  rfl

/-! ### The reset input during a command (U3, R190) -/

/-- A command cut short leaves the reset values of R34, whatever the free response is. -/
theorem sameItems_cutShort (c : Command) (s : State) : SameItems (State.resetWith s.cfg) (cutShort c s) := by
  obtain ⟨log, e, -⟩ := cutShort_items c s
  rw [e]
  exact ⟨rfl, rfl, rfl, rfl, rfl, rfl, rfl, rfl, rfl, rfl⟩

@[simp] theorem cutShort_cfg (c : Command) (s : State) : (cutShort c s).cfg = s.cfg := by
  obtain ⟨log, e, -⟩ := cutShort_items c s
  rw [e]; rfl

@[simp] theorem cutShort_inputs (c : Command) (s : State) : (cutShort c s).inputs = s.inputs := by
  obtain ⟨log, e, -⟩ := cutShort_items c s
  rw [e]; rfl

/-- A command cut short answers nothing, or some status with the first bytes of its data. -/
theorem cutShort_rsp (c : Command) (s : State) :
    (cutShort c s).rsp = s.rsp ∨
      ∃ status k, (cutShort c s).rsp = s.rsp ++ [⟨status, (dataOf c s).take k⟩] := by
  unfold cutShort
  cases Config.cutResponse s.freeUses with
  | none => exact .inl rfl
  | some cut => exact .inr ⟨cut.1, cut.2, rfl⟩

/-- Settles O10: the items by R190; and the data a cut response is taken from is that of the completed command's response. -/
theorem resetDuringCommand : Obligations.ResetDuringCommand := by
  intro s c rest full hx hfull
  rw [step_word rfl] at hfull
  obtain rfl : afterWord c (setInputs rest s) = full := Host.Outcome.next.inj hfull
  obtain ⟨r, hr⟩ := afterWord_rsp c (setInputs rest s)
  refine ⟨cutShort c (setInputs rest s), step_resetDuring hx, sameItems_cutShort c (setInputs rest s), cutShort_cfg c _,
    cutShort_inputs c _, ?_⟩
  rcases cutShort_rsp c (setInputs rest s) with hnone | ⟨status, k, hcut⟩
  · exact .inl hnone
  · rw [dataOf_eq hr] at hcut
    exact .inr ⟨status, r.data.take k, r, hcut, hr, List.take_prefix k r.data⟩

/-! ### Every word completes (R200, R70) -/

/-- Settles O11: `exec` always answers what `after` says, and the step what `afterWord` says. -/
theorem everyWordCompletes : Obligations.EveryWordCompletes := by
  refine ⟨fun i s => ⟨after i s, exec_eq i s⟩, fun s c rest hx => ?_⟩
  obtain ⟨r, hr⟩ := afterWord_rsp c (setInputs rest s)
  exact ⟨afterWord c (setInputs rest s), r, step_word hx, afterWord_inputs c _, hr⟩

/-! ### A checksum streamed across CHB.BUILD (R194) -/

/-- The last response is the one the log ends with. -/
theorem lastResponse_of_rsp {s : State} {log : List Response} {r : Response} (h : s.rsp = log ++ [r]) :
    lastResponse s = r := by
  simp [lastResponse, h]

/-- CHB.BUILD leaves in ACC the run over tag and payload; each CRC.UPD after it runs on from there (R123, R96). -/
theorem afterAll_buildStream (tag : Word) (bs : List Byte) {s : State} (hm : s.mode = .run) :
    afterAll ([.chbBuild tag] ++ bs.map .crcUpd ++ [.crcFin]) s = { s with
      acc := crcAcc (bew tag ++ s.pb ++ bs)
      pb := []
      rsp := s.rsp ++ [⟨0x00#8, chunk tag s.pb⟩] ++ List.replicate bs.length ⟨0x00#8, []⟩ ++
        [⟨0x00#8, bew (crc32 (bew tag ++ s.pb ++ bs))⟩] } := by
  have hrun : crcRun (crcAcc (bew tag ++ s.pb)) bs = crcAcc (bew tag ++ s.pb ++ bs) := (crcRun_append _ _ _).symm
  rw [afterAll_append, afterAll_append, afterAll_cons .crcFin, afterAll_nil, afterAll_cons (.chbBuild tag), afterAll_nil,
    after_chbBuild tag hm, afterAll_crcUpds bs (by exact hm), after_crcFin (by exact hm)]
  simp only [answered, hrun, crc32]

/-- Settles O43: what CHB.BUILD leaves does not mention the ACC before it, and the stream after it continues its
accumulator. -/
theorem buildOverwritesStream : Obligations.BuildOverwritesStream := by
  intro tag v bs s t hm
  refine ⟨?_, fun he => ?_⟩
  · rw [exec_eq, exec_eq, after_chbBuild tag hm, after_chbBuild (s := { s with acc := v }) tag hm]
  · rw [execAll_eq, afterAll_buildStream tag bs hm] at he
    cases he
    exact lastResponse_of_rsp rfl

end Sys2Proof.Machine
end
